-- ==== Sys2Proof/Word.lean ====
section
/-!
DEFINITION. The words of the block (spec/00_scope.md R7): bytes, the 104-bit command word, the 16-bit chain
packet, the 64-bit sprite.
-/

namespace Sys2Proof

/-- A device byte, a register address of a chip, a packet's value (R7). -/
abbrev Byte := BitVec 8

/-- A host command word, `cmd[103:0]` (30_encoding.md R60, R62). -/
abbrev CommandWord := BitVec 104

/-- A chain packet as the 16-bit word `{address, value}` (20_memory.md R47, 30_encoding.md R71). -/
abbrev PacketWord := BitVec 16

/-- The 64 bits of a sprite, the payload of BLIT (30_encoding.md R66). -/
abbrev Sprite := BitVec 64

end Sys2Proof
end

