-- ==== Sys2Proof/Config.lean ====
section
/-!
DEFINITION. The synthesis parameters of the block (00_scope.md R6, R8, R9) and the one free value.
The parameters are plain data; State carries them, constant, so that a claim about every state is a claim about
every choice of them (R8: nothing may be proved from the numbers). Assumption log 7.
-/

namespace Sys2Proof

/-- The synthesis parameters: `N_MAX` (R6), the ten chip register codes and values (R8), `BLIT_BATCHED` (R9). -/
structure Config where
  /-- `N_MAX`, the largest device count INIT accepts (R6). -/
  nMax            : Byte
  regScanLimit    : Byte
  valScanAll      : Byte
  regDisplayTest  : Byte
  valTestOff      : Byte
  regDecodeMode   : Byte
  valDecodeRaw    : Byte
  regIntensity    : Byte
  valIntensityMax : Byte
  regShutdown     : Byte
  valNormalOp     : Byte
  /-- `BLIT_BATCHED`: one RowSync per affected row instead of one per in-range sprite bit (R9). -/
  blitBatched     : Bool
deriving DecidableEq, Repr

/-- The spec's defaults (R8, R9). The ten codes are the spec's own from general knowledge (93 G1). `N_MAX` is OPEN:
255, the largest value R6 allows, is the model's. DESIGN CHOICE, unsafe for a claim that rests on the number
(log 7). -/
def Config.default : Config where
  nMax            := 0xFF#8
  regScanLimit    := 0x0B#8
  valScanAll      := 0x07#8
  regDisplayTest  := 0x0F#8
  valTestOff      := 0x00#8
  regDecodeMode   := 0x09#8
  valDecodeRaw    := 0x00#8
  regIntensity    := 0x0A#8
  valIntensityMax := 0x0F#8
  regShutdown     := 0x0C#8
  valNormalOp     := 0x01#8
  blitBatched     := false

/-- The five configuration register addresses, in the order INIT writes them (43 R128). -/
def Config.configAddresses (c : Config) : List Byte :=
  [c.regScanLimit, c.regDisplayTest, c.regDecodeMode, c.regIntensity, c.regShutdown]

/-- A byte that is the address of a digit register, 1..8 (R8, 20 R42). -/
def isDigitAddress (a : Byte) : Bool := decide (1 ≤ a.toNat ∧ a.toNat ≤ 8)

/-- What R6 and R8 ask of the parameters: `1 ≤ N_MAX ≤ 255`, no configuration address in 1..8. That the five addresses
differ is DEDUCED (log 14): five registers of one chip, each named apart. -/
def Config.wf (c : Config) : Bool :=
  decide (c.nMax ≠ 0) && c.configAddresses.all (fun a => !isDigitAddress a) && decide c.configAddresses.Nodup

/-- Whether the Transfer Primitive call that is outstanding when `rst` is asserted completes on the wire: the spec leaves
either (70 R181, 93 X6). A FREE VALUE with no body, read at State's counter `free` (log 11). -/
opaque Config.outstandingCallCompletes : Nat → Bool

end Sys2Proof
end

