-- ==== Sys2Proof/Syntax.lean ====
section
/-!
DEFINITION. The instructions: one constructor per row of spec/opcode_table.json, the six host commands (30_encoding.md
R67) and the thirteen packet kinds (R72). Operands of commands are the mathematical integers the formats give (R64,
R65, R66); a packet's operand is its value byte.
-/

namespace Sys2Proof

/-- One constructor per row of the opcode table. -/
inductive Instr where
  /-- INIT, format I (R64): `device_count`, the unsigned 16-bit field. -/
  | init (deviceCount : Nat)
  /-- SET_PIXEL, format P (R65): signed `x`, `y`; `on = p[0]`. -/
  | setPixel (x y : Int) (on : Bool)
  /-- GET_PIXEL, format P. -/
  | getPixel (x y : Int)
  /-- TOGGLE_PIXEL, format P; it has no value operand (R75). -/
  | togglePixel (x y : Int)
  /-- CLEAR, format Z (R63). -/
  | clear
  /-- BLIT, format B (R66): signed offsets and the sprite's 64 bits. -/
  | blit (offsetX offsetY : Int) (sprite : Sprite)
  | digit0 (value : Byte)
  | digit1 (value : Byte)
  | digit2 (value : Byte)
  | digit3 (value : Byte)
  | digit4 (value : Byte)
  | digit5 (value : Byte)
  | digit6 (value : Byte)
  | digit7 (value : Byte)
  | scanLimit (value : Byte)
  | displayTest (value : Byte)
  | decodeMode (value : Byte)
  | intensity (value : Byte)
  | shutdown (value : Byte)
deriving DecidableEq, Repr

/-- The row's name in the opcode table. -/
def Instr.mnemonic : Instr → String
  | .init _ => "INIT"
  | .setPixel _ _ _ => "SET_PIXEL"
  | .getPixel _ _ => "GET_PIXEL"
  | .togglePixel _ _ => "TOGGLE_PIXEL"
  | .clear => "CLEAR"
  | .blit _ _ _ => "BLIT"
  | .digit0 _ => "DIGIT0"
  | .digit1 _ => "DIGIT1"
  | .digit2 _ => "DIGIT2"
  | .digit3 _ => "DIGIT3"
  | .digit4 _ => "DIGIT4"
  | .digit5 _ => "DIGIT5"
  | .digit6 _ => "DIGIT6"
  | .digit7 _ => "DIGIT7"
  | .scanLimit _ => "SCAN_LIMIT"
  | .displayTest _ => "DISPLAY_TEST"
  | .decodeMode _ => "DECODE_MODE"
  | .intensity _ => "INTENSITY"
  | .shutdown _ => "SHUTDOWN"

/-- A host command (30_encoding.md R67), as against a packet kind (R72), which the host cannot ask for (R69). -/
def Instr.isCommand : Instr → Bool
  | .init _ => true
  | .setPixel _ _ _ => true
  | .getPixel _ _ => true
  | .togglePixel _ _ => true
  | .clear => true
  | .blit _ _ _ => true
  | .digit0 _ => false
  | .digit1 _ => false
  | .digit2 _ => false
  | .digit3 _ => false
  | .digit4 _ => false
  | .digit5 _ => false
  | .digit6 _ => false
  | .digit7 _ => false
  | .scanLimit _ => false
  | .displayTest _ => false
  | .decodeMode _ => false
  | .intensity _ => false
  | .shutdown _ => false

end Sys2Proof
end

