-- ==== Sys2Proof/WellFormed.lean ====
section
/-!
DEFINITION. The checks an instruction's operands meet when they come from a command word: the ranges of the 16-bit
fields (00_scope.md R7, 30_encoding.md R64, R65, R66). Every byte is a packet's value.
-/

namespace Sys2Proof

/-- The range of a 16-bit two's-complement field (R7). -/
def inSigned16 (x : Int) : Bool := decide (-32768 ≤ x ∧ x ≤ 32767)

/-- The range of the unsigned 16-bit field of INIT (R64). -/
def inUnsigned16 (n : Nat) : Bool := decide (n ≤ 65535)

def Instr.wf : Instr → Bool
  | .init deviceCount => inUnsigned16 deviceCount
  | .setPixel x y _ => inSigned16 x && inSigned16 y
  | .getPixel x y => inSigned16 x && inSigned16 y
  | .togglePixel x y => inSigned16 x && inSigned16 y
  | .clear => true
  | .blit offsetX offsetY _ => inSigned16 offsetX && inSigned16 offsetY
  | .digit0 _ => true
  | .digit1 _ => true
  | .digit2 _ => true
  | .digit3 _ => true
  | .digit4 _ => true
  | .digit5 _ => true
  | .digit6 _ => true
  | .digit7 _ => true
  | .scanLimit _ => true
  | .displayTest _ => true
  | .decodeMode _ => true
  | .intensity _ => true
  | .shutdown _ => true

end Sys2Proof
end

