-- ==== Sys2Proof/Decode.lean ====
section
/-!
DEFINITION. The decoder of command words (30_encoding.md R62 to R68) and of chain packets (R71, R72), both total and
rejecting by name, and after it the encoder and the assembler text (R74).
-/

namespace Sys2Proof

/-- A word as it reaches a decoder: a 104-bit command on the command port (R60), or a 16-bit packet (R71). -/
inductive Word where
  | command (w : CommandWord)
  | packet (w : PacketWord)
deriving DecidableEq, Repr

/-- What a decoder answers: the instruction, or why there is none. -/
inductive Decoded where
  | instr (i : Instr)
  /-- A reserved opcode: 0x00, 0x07..0xFF (R68). -/
  | reservedOpcode (op : Byte)
  /-- A packet address that is none of the thirteen of R72 (R73). -/
  | unknownPacketAddress (a : Byte)
deriving DecidableEq, Repr

/-! ### Fields of the command word (R62) and of the packet (R71) -/

/-- `op = cmd[103:96]`. -/
def opField (w : CommandWord) : Byte := w.extractLsb' 96 8

/-- `a = cmd[95:80]`. -/
def aField (w : CommandWord) : BitVec 16 := w.extractLsb' 80 16

/-- `b = cmd[79:64]`. -/
def bField (w : CommandWord) : BitVec 16 := w.extractLsb' 64 16

/-- `p = cmd[63:0]`. -/
def pField (w : CommandWord) : BitVec 64 := w.extractLsb' 0 64

/-- `addr = pkt[15:8]` (R71). -/
def packetAddr (w : PacketWord) : Byte := w.extractLsb' 8 8

/-- `value = pkt[7:0]` (R71). -/
def packetValue (w : PacketWord) : Byte := w.extractLsb' 0 8

/-- The packet `{addr, value}` (R71). -/
def mkPacket (a v : Byte) : PacketWord := a ++ v

/-- The command word with the four fields at their places (R62). -/
def mkCommand (op : Byte) (a b : BitVec 16) (p : BitVec 64) : CommandWord := op ++ a ++ b ++ p

/-! ### Chip register addresses (R72) -/

/-- `REG_DIGIT(r) = r + 1`, the digit register of row `r` (00_scope.md R8, 20 R42). -/
def digitReg (r : Fin 8) : Byte := BitVec.ofNat 8 (r.val + 1)

/-- The thirteen register addresses of a chip (20 R42, 30 R72). -/
def isChipRegister (c : Config) (a : Byte) : Bool :=
  isDigitAddress a || c.configAddresses.contains a

/-! ### Decoding -/

/-- The command decoder looks at `op` alone (R67); a reserved opcode is refused by name (R68). A field the format does not
use is dropped (R62). -/
def decodeCommand (w : CommandWord) : Decoded :=
  match (opField w).toNat with
  | 1 => .instr (.init (aField w).toNat)
  | 2 => .instr (.setPixel (aField w).toInt (bField w).toInt ((pField w).getLsbD 0))
  | 3 => .instr (.getPixel (aField w).toInt (bField w).toInt)
  | 4 => .instr (.togglePixel (aField w).toInt (bField w).toInt)
  | 5 => .instr .clear
  | 6 => .instr (.blit (aField w).toInt (bField w).toInt (pField w))
  | _ => .reservedOpcode (opField w)

/-- The packet decoder looks at the address byte (R71, R72). The five configuration addresses are parameters. -/
def decodePacket (c : Config) (w : PacketWord) : Decoded :=
  let a := packetAddr w
  let v := packetValue w
  if a = 1#8 then .instr (.digit0 v)
  else if a = 2#8 then .instr (.digit1 v)
  else if a = 3#8 then .instr (.digit2 v)
  else if a = 4#8 then .instr (.digit3 v)
  else if a = 5#8 then .instr (.digit4 v)
  else if a = 6#8 then .instr (.digit5 v)
  else if a = 7#8 then .instr (.digit6 v)
  else if a = 8#8 then .instr (.digit7 v)
  else if a = c.regScanLimit then .instr (.scanLimit v)
  else if a = c.regDisplayTest then .instr (.displayTest v)
  else if a = c.regDecodeMode then .instr (.decodeMode v)
  else if a = c.regIntensity then .instr (.intensity v)
  else if a = c.regShutdown then .instr (.shutdown v)
  else .unknownPacketAddress a

/-- The decoder of either kind of word. -/
def decode (c : Config) : Word → Decoded
  | .command w => decodeCommand w
  | .packet w => decodePacket c w

/-- The instruction of a decoder's answer, if it is one. -/
def Decoded.toOption : Decoded → Option Instr
  | .instr i => some i
  | .reservedOpcode _ => none
  | .unknownPacketAddress _ => none

/-- The instruction the decoder reads from a word numbered as the opcode table numbers it: a command row has 104 bits, a
packet row 16, each one word with bit 0 its least significant bit. The five configuration addresses are the spec's
defaults, as in the table. -/
def decodeTableWord (nbits w : Nat) : Option Instr :=
  if nbits = 104 then (decodeCommand (BitVec.ofNat 104 w)).toOption
  else if nbits = 16 then (decodePacket Config.default (BitVec.ofNat 16 w)).toOption
  else none

/-! ### Encoding (R62 to R67, R71, R72): zeros in the fields a format does not use -/

def encode (c : Config) : Instr → Word
  | .init n => .command (mkCommand 0x01#8 (BitVec.ofNat 16 n) 0 0)
  | .setPixel x y on =>
      .command (mkCommand 0x02#8 (BitVec.ofInt 16 x) (BitVec.ofInt 16 y) (if on then 1 else 0))
  | .getPixel x y => .command (mkCommand 0x03#8 (BitVec.ofInt 16 x) (BitVec.ofInt 16 y) 0)
  | .togglePixel x y => .command (mkCommand 0x04#8 (BitVec.ofInt 16 x) (BitVec.ofInt 16 y) 0)
  | .clear => .command (mkCommand 0x05#8 0 0 0)
  | .blit ox oy s => .command (mkCommand 0x06#8 (BitVec.ofInt 16 ox) (BitVec.ofInt 16 oy) s)
  | .digit0 v => .packet (mkPacket 0x01#8 v)
  | .digit1 v => .packet (mkPacket 0x02#8 v)
  | .digit2 v => .packet (mkPacket 0x03#8 v)
  | .digit3 v => .packet (mkPacket 0x04#8 v)
  | .digit4 v => .packet (mkPacket 0x05#8 v)
  | .digit5 v => .packet (mkPacket 0x06#8 v)
  | .digit6 v => .packet (mkPacket 0x07#8 v)
  | .digit7 v => .packet (mkPacket 0x08#8 v)
  | .scanLimit v => .packet (mkPacket c.regScanLimit v)
  | .displayTest v => .packet (mkPacket c.regDisplayTest v)
  | .decodeMode v => .packet (mkPacket c.regDecodeMode v)
  | .intensity v => .packet (mkPacket c.regIntensity v)
  | .shutdown v => .packet (mkPacket c.regShutdown v)

/-! ### Assembler text (R74) -/

/-- A hexadecimal digit, as R74's words are written. -/
def hexDigit (n : Nat) : Char :=
  ['0', '1', '2', '3', '4', '5', '6', '7', '8', '9', 'A', 'B', 'C', 'D', 'E', 'F'].getD (n % 16) '0'

/-- The `k` low hexadecimal digits of a number, most significant first. -/
def hexDigits : Nat → Nat → List Char
  | 0, _ => []
  | k + 1, n => hexDigits k (n / 16) ++ [hexDigit n]

/-- A command word as R74 writes it: 26 hexadecimal digits, `op a b p`. -/
def commandText (w : CommandWord) : String :=
  String.ofList (hexDigits 2 (opField w).toNat ++ [' '] ++ hexDigits 4 (aField w).toNat ++ [' '] ++
    hexDigits 4 (bField w).toNat ++ [' '] ++ hexDigits 16 (pField w).toNat)

/-- The mnemonic and operands of a command as R74 writes them; a packet kind has no line of its own there and is written
`MNEMONIC value` with a two-digit value (DESIGN CHOICE, safe: text only; log 15). -/
def Instr.assembly (i : Instr) : String :=
  match i with
  | .init n => i.mnemonic ++ " " ++ toString n
  | .setPixel x y on => i.mnemonic ++ " " ++ toString x ++ ", " ++ toString y ++ ", " ++ (if on then "1" else "0")
  | .getPixel x y => i.mnemonic ++ " " ++ toString x ++ ", " ++ toString y
  | .togglePixel x y => i.mnemonic ++ " " ++ toString x ++ ", " ++ toString y
  | .clear => i.mnemonic
  | .blit ox oy s =>
      i.mnemonic ++ " " ++ toString ox ++ ", " ++ toString oy ++ ", 0x" ++ String.ofList (hexDigits 16 s.toNat)
  | .digit0 v => i.mnemonic ++ " " ++ String.ofList (hexDigits 2 v.toNat)
  | .digit1 v => i.mnemonic ++ " " ++ String.ofList (hexDigits 2 v.toNat)
  | .digit2 v => i.mnemonic ++ " " ++ String.ofList (hexDigits 2 v.toNat)
  | .digit3 v => i.mnemonic ++ " " ++ String.ofList (hexDigits 2 v.toNat)
  | .digit4 v => i.mnemonic ++ " " ++ String.ofList (hexDigits 2 v.toNat)
  | .digit5 v => i.mnemonic ++ " " ++ String.ofList (hexDigits 2 v.toNat)
  | .digit6 v => i.mnemonic ++ " " ++ String.ofList (hexDigits 2 v.toNat)
  | .digit7 v => i.mnemonic ++ " " ++ String.ofList (hexDigits 2 v.toNat)
  | .scanLimit v => i.mnemonic ++ " " ++ String.ofList (hexDigits 2 v.toNat)
  | .displayTest v => i.mnemonic ++ " " ++ String.ofList (hexDigits 2 v.toNat)
  | .decodeMode v => i.mnemonic ++ " " ++ String.ofList (hexDigits 2 v.toNat)
  | .intensity v => i.mnemonic ++ " " ++ String.ofList (hexDigits 2 v.toNat)
  | .shutdown v => i.mnemonic ++ " " ++ String.ofList (hexDigits 2 v.toNat)

end Sys2Proof
end

