-- ==== Sys2Proof/Machine/State.lean ====
section
/-!
DEFINITION. The state of the block and of the environment its rules mention (10_state.md), as plain data, and the state
right after reset (10_state.md section 8, 70 R180).
-/

namespace Sys2Proof.Machine

/-- The configuration state machine (10 R22, R171). Value 3 is never reached and is left out, as R22 allows. -/
inductive Mode where
  | uninit
  | config
  | oper
deriving DecidableEq, Repr

/-- The three sticky fault flags (10 R32). -/
inductive FaultFlag where
  /-- `F_SEQ`, fault bit 0 (60 R162). -/
  | seq
  /-- `F_ILLOP`, fault bit 1 (60 R163). -/
  | illop
  /-- `F_BADN`, fault bit 2 (60 R164). -/
  | badn
deriving DecidableEq, Repr

/-- An event of the trace `T`, one Transfer Primitive call (00 R14, 20 R50). -/
inductive Event where
  /-- `I`: `init_transfer()`. -/
  | init
  /-- `S(b)`: `send_byte(b)`. -/
  | send (b : Byte)
  /-- `L`: `latch()`. -/
  | latch
deriving DecidableEq, Repr

/-- One primitive step of a command's unrolled step list (00 R13, R14; 10 R28). Rows and bits are 0..7. -/
inductive SeqStep where
  /-- `N <- n`. -/
  | writeN (n : Byte)
  /-- `mode <- m`. -/
  | setMode (m : Mode)
  /-- `FB[row][device] <- 0x00`. -/
  | fbZero (row : Fin 8) (device : Nat)
  /-- `FB[row][device] <-` the same byte with bit `bit` made `on` (41 R91). -/
  | fbPut (row : Fin 8) (device : Nat) (bit : Fin 8) (on : Bool)
  /-- `FB[row][device] <- FB[row][device] ^ (1 << bit)` (41 R95). -/
  | fbFlip (row : Fin 8) (device : Nat) (bit : Fin 8)
  /-- `respond(b)`. -/
  | respond (b : Bool)
  /-- `respond(FB[row][device][bit])` (41 R93). -/
  | respondPixel (row : Fin 8) (device : Nat) (bit : Fin 8)
  /-- `raise Fault(F_x)` (60 R161). -/
  | raise (f : FaultFlag)
  /-- `TpInit()`. -/
  | tpInit
  /-- `TpSend(b)`. -/
  | tpSend (b : Byte)
  /-- `TpSend(FB[row][device])`, the byte read at the moment it is sent (42 R111). -/
  | tpSendFb (row : Fin 8) (device : Nat)
  /-- `TpLatch()`. -/
  | tpLatch
  /-- The end of a command that has no primitive to do, such as an out-of-range SET_PIXEL: the sequencer goes Idle and
  `busy` falls (30 R60, 10 R28; log 1). -/
  | finish
deriving DecidableEq, Repr

/-- One driver chip of the chain (10 R35, R36): its shift register `SR[j]` and its register file `REG[j]`, one byte per
register address in canonical form (an unlisted register holds 0x00). -/
structure Chip where
  sr  : BitVec 16
  reg : List Host.Cell
deriving DecidableEq, Repr

/-- Why the machine stops. Neither can be reached from reset. -/
inductive Fault where
  /-- A byte of FB whose device index is not below N was accessed; it does not exist (10 R23). Raised by the steps that
  read or write FB. Safe: the spec has no such access (40 R84). -/
  | noSuchByte
  /-- A Transfer Primitive call came before `init_transfer` (93 X5: treatment `fault`). Raised by a send or a latch. Safe:
  unreachable under the spec's rules (10 R37). -/
  | transferBeforeInit
deriving DecidableEq, Repr

/-- What the model has no meaning for. -/
inductive Refusal where
  /-- The arm of an instruction with no meaning yet; no arm is left (raised by Dispatch only). Safe. -/
  | notModelled (mnemonic : String)
  /-- A packet word given to the encoder alone, whose address is none of the thirteen of 30 R72: the block never sends it
  and what a chip does with it is outside the spec (30 R73). Raised by step. Safe. -/
  | unknownPacketAddress (address : Byte)
deriving DecidableEq, Repr

/-- The whole state. INVENTORY.md, section State, gives each field's rule and reset value. -/
structure State where
  /-- The synthesis parameters, constant (00 R6, R8, R9; log 7). -/
  cfg      : Config
  /-- `N`, the device count (10 R21). -/
  n        : Byte
  /-- `mode` (10 R22). -/
  mode     : Mode
  /-- `fault.F_SEQ` (10 R32). -/
  fSeq     : Bool
  /-- `fault.F_ILLOP` (10 R32). -/
  fIllop   : Bool
  /-- `fault.F_BADN` (10 R32). -/
  fBadn    : Bool
  /-- The frame buffer `FB` (10 R23), canonical cells: rising addresses, no byte 0x00 listed (log 2, log 3). -/
  fb       : List Host.Cell
  /-- The sequencer's steps still to do; `[]` is Idle (10 R28, R29). -/
  seq      : List SeqStep
  /-- `rsp` (10 R33). -/
  rsp      : Bool
  /-- `rsp_valid` (10 R33; log 12). -/
  rspValid : Bool
  /-- The trace `T`, oldest event first; ghost state (00 R14). -/
  trace    : List Event
  /-- The chain, chip 0 nearest the controller: environment (10 R36; log 6). -/
  chips    : List Chip
  /-- `tp_ready_ever`: the transport has been set up: environment (10 R37). -/
  tpReady  : Bool
  /-- How many further Transfer Primitive calls return; `none`: every call. The environment's choice (00 R14, 70 R188;
  log 9). -/
  tpCredit : Option Nat
  /-- The command words the host still has to have accepted, the head standing on the command port (30 R60, 70 R193;
  log 10). -/
  host     : List CommandWord
  /-- The reset input, sampled at a step (70 R180, R181; log 11). -/
  rst      : Bool
  /-- A packet word given to the device protocol encoder alone (00 R2, 30 R71; log 13). -/
  enc      : Option PacketWord
  /-- Counter at which the free value is read (log 11). -/
  free     : Nat
deriving DecidableEq, Repr

/-- A chip at power-on: its registers are unspecified (10 R36). DESIGN CHOICE: all zero; unsafe (log 5). -/
def Chip.powerOn : Chip where
  sr  := 0#16
  reg := []

/-- How many chips the chain holds at reset: the environment's. DESIGN CHOICE (log 6): as many as the largest N, so that every
device INIT can name has its chip. -/
def chainAtReset : Nat := 255

/-- The machine right after reset (10_state.md section 8, 70 R180). -/
def State.reset : State where
  cfg      := Config.default
  n        := 0#8
  mode     := .uninit
  fSeq     := false
  fIllop   := false
  fBadn    := false
  fb       := []
  seq      := []
  rsp      := false
  rspValid := false
  trace    := []
  chips    := List.replicate chainAtReset Chip.powerOn
  tpReady  := false
  tpCredit := none
  host     := []
  rst      := false
  enc      := none
  free     := 0

end Sys2Proof.Machine
end

