-- ==== Sys2Proof/Machine/Flags.lean ====
section
/-!
DEFINITION. The flag-like state: the three sticky fault flags (10 R32, 60 R161 to R166), the response bit (10 R33) and the
status outputs (10 R34, 92 D25, D26).
-/

namespace Sys2Proof.Machine

/-- `raise Fault(F_x)` (00 R13, 60 R161): sets one sticky flag and nothing else. It is no trap: nothing is saved and
control goes nowhere (60 R169). -/
def State.raise (s : State) (f : FaultFlag) : State :=
  match f with
  | .seq => { s with fSeq := true }
  | .illop => { s with fIllop := true }
  | .badn => { s with fBadn := true }

/-- `respond(b)` (00 R13, 10 R33). -/
def State.respond (s : State) (b : Bool) : State := { s with rsp := b, rspValid := true }

/-- `busy = 1` exactly when the sequencer is not Idle (10 R30). -/
def State.busy (s : State) : Bool := !s.seq.isEmpty

/-- `cmd_ready = ~busy` on the command port (30 R60). -/
def State.cmdReady (s : State) : Bool := !s.busy

/-- `cmd_valid`: the host drives a word (30 R60). -/
def State.cmdValid (s : State) : Bool := !s.host.isEmpty

/-- One fault flag (10 R32). -/
def State.flag (s : State) (f : FaultFlag) : Bool :=
  match f with
  | .seq => s.fSeq
  | .illop => s.fIllop
  | .badn => s.fBadn

/-- The encoding of `mode` (10 R22). -/
def Mode.code : Mode → BitVec 2
  | .uninit => 0#2
  | .config => 1#2
  | .oper => 2#2

/-- The output `fault[2:0]`: bit 0 `F_SEQ`, bit 1 `F_ILLOP`, bit 2 `F_BADN` (10 R32). -/
def State.faultBits (s : State) : BitVec 3 :=
  BitVec.ofBool s.fBadn ++ BitVec.ofBool s.fIllop ++ BitVec.ofBool s.fSeq

/-- The status outputs the host sees (10 R34, 70 R194). -/
structure Status where
  busy     : Bool
  mode     : BitVec 2
  fault    : BitVec 3
  rsp      : Bool
  rspValid : Bool
deriving DecidableEq, Repr

/-- The outputs, continuously driven (92 D25). -/
def State.status (s : State) : Status where
  busy     := s.busy
  mode     := s.mode.code
  fault    := s.faultBits
  rsp      := s.rsp
  rspValid := s.rspValid

end Sys2Proof.Machine
end

