-- ==== Sys2Proof/Machine/Operands.lean ====
section
/-!
DEFINITION. The pixel address decoder (40_pixel_address_decoder.md), the sprite's bits (30 R66), the clipping rectangle
(44 R143) and the bit operations of a pixel write. All are pure functions.
-/

namespace Sys2Proof.Machine

/-- `valid(x, y)` (40 R81): both bounds, on mathematical integers. -/
def valid (n : Byte) (x y : Int) : Bool :=
  decide (0 ≤ x ∧ x < 8 * (n.toNat : Int) ∧ 0 ≤ y ∧ y < 8)

/-- Where a pixel lives: row, device index and bit offset (40 R80, R82). -/
structure PixelAddr where
  row    : Fin 8
  device : Nat
  bit    : Fin 8
deriving DecidableEq, Repr

/-- `address(x, y)` for valid coordinates (40 R82): `row = y`, `device_index = x div 8`, `bit_offset = 7 - (x mod 8)`. -/
def address (x y : Int) : PixelAddr where
  row    := Fin.ofNat 8 y.toNat
  device := x.toNat / 8
  bit    := Fin.ofNat 8 (7 - x.toNat % 8)

/-- The decoder's outputs: an address when `valid`, nothing when the coordinate is out of range (40 R83). -/
def locate (n : Byte) (x y : Int) : Option PixelAddr :=
  if valid n x y then some (address x y) else none

/-- The coordinate a bit of FB shows: `x = 8·device + 7 - bit`, `y = row` (10 R24, 40 R84). -/
def PixelAddr.coord (a : PixelAddr) : Int × Int :=
  ((8 * a.device + 7 - a.bit.val : Int), (a.row.val : Int))

/-- The bit-level range check (40 R85) on 16-bit words: the sign bits clear, `xw[15:3] < N`, `yw[15:3] = 0`. -/
def validBits (n : Byte) (xw yw : BitVec 16) : Bool :=
  !xw.msb && decide ((xw.extractLsb' 3 13).toNat < n.toNat) && decide (yw.extractLsb' 3 13 = 0#13)

/-- The bit-level address (40 R85): `row = yw[2:0]`, `device = xw[15:3]`, `bit_offset = ~xw[2:0]`. -/
def addressBits (xw yw : BitVec 16) : PixelAddr where
  row    := Fin.ofNat 8 (yw.extractLsb' 0 3).toNat
  device := (xw.extractLsb' 3 13).toNat
  bit    := Fin.ofNat 8 (~~~(xw.extractLsb' 0 3)).toNat

/-- The byte with bit `bit` made `on`: `b | (1 << k)` or `b & ~(1 << k)` (41 R91). -/
def putBit (bit : Fin 8) (on : Bool) (b : Byte) : Byte :=
  if on then b ||| (1#8 <<< bit.val) else b &&& ~~~(1#8 <<< bit.val)

/-- The byte with bit `bit` flipped: `b ^ (1 << k)` (41 R95). -/
def flipBit (bit : Fin 8) (b : Byte) : Byte := b ^^^ (1#8 <<< bit.val)

/-- `sprite_bit(r, c) = p[63 - 8r - c]` (30 R66). -/
def spriteBit (sprite : Sprite) (r c : Fin 8) : Bool := sprite.getLsbD (63 - 8 * r.val - c.val)

/-- The rows of the canvas, and the rows and columns of a sprite, ascending. -/
def rows : List (Fin 8) := [0, 1, 2, 3, 4, 5, 6, 7]

/-- The 64 source positions of a sprite in row-major order, both ascending (44 R141). -/
def spriteCells : List (Fin 8 × Fin 8) := rows.flatMap fun r => rows.map fun c => (r, c)

/-- The target column of source column `c`, computed without wrapping (44 R142). -/
def targetX (offsetX : Int) (c : Fin 8) : Int := (c.val : Int) + offsetX

/-- The target row of source row `r`, computed without wrapping (44 R142). -/
def targetY (offsetY : Int) (r : Fin 8) : Int := (r.val : Int) + offsetY

/-- `touched[y]` (44 R145): some source bit has a valid target in canvas row `y`, whether or not the bit changes. -/
def touched (n : Byte) (offsetX offsetY : Int) (y : Fin 8) : Bool :=
  spriteCells.any fun rc =>
    valid n (targetX offsetX rc.2) (targetY offsetY rc.1) && decide (targetY offsetY rc.1 = (y.val : Int))

/-! ### The clipping rectangle (44 R143) -/

def clipColLo (offsetX : Int) : Int := max 0 (-offsetX)
def clipColHi (n : Byte) (offsetX : Int) : Int := min 7 (8 * (n.toNat : Int) - 1 - offsetX)
def clipRowLo (offsetY : Int) : Int := max 0 (-offsetY)
def clipRowHi (offsetY : Int) : Int := min 7 (7 - offsetY)

/-- `cols`: how many source columns are in range. -/
def clipCols (n : Byte) (offsetX : Int) : Int := max 0 (clipColHi n offsetX - clipColLo offsetX + 1)

/-- `rows`: how many source rows are in range. -/
def clipRows (offsetY : Int) : Int := max 0 (clipRowHi offsetY - clipRowLo offsetY + 1)

end Sys2Proof.Machine
end

