-- ==== Sys2Proof/Machine/Ops.lean ====
section
/-!
DEFINITION. The named operations over memory, the chain and the sequencer: the canonical byte memory, FB accesses (20 R49),
shifting and latching (42 R115, R117), the Transfer Primitive calls (20 R50), one primitive step (00 R13), the running of a
step list up to a call that does not return (00 R14), acceptance (30 R60, R61), and reset (70 R180 to R182).
-/

namespace Sys2Proof.Machine

/-! ### Byte memory in canonical form -/

/-- Canonical form: addresses strictly rising, no listed byte 0x00 (an unlisted address reads 0x00). -/
def memWf : List Host.Cell → Bool
  | [] => true
  | c :: m => decide (c.2 ≠ 0#8) && m.all (fun d => decide (c.1 < d.1)) && memWf m

/-- The byte at an address. -/
def memRead : List Host.Cell → Nat → Byte
  | [], _ => 0#8
  | c :: m, a => if c.1 = a then c.2 else memRead m a

/-- A byte written; the canonical form is kept, so writing 0x00 removes the entry. -/
def memWrite : List Host.Cell → Nat → Byte → List Host.Cell
  | [], a, v => if v = 0#8 then [] else [(a, v)]
  | c :: m, a, v =>
    if a < c.1 then (if v = 0#8 then c :: m else (a, v) :: c :: m)
    else if a = c.1 then (if v = 0#8 then m else (a, v) :: m)
    else c :: memWrite m a v

/-! ### The frame buffer (10 R23, 20 R40, R49) -/

/-- Where `FB[row][device]` is stored. Unobservable (20 R41, 92 D23). DESIGN CHOICE, safe (log 2): `256·row + device`,
which no two bytes share since `device ≤ 254`. -/
def fbAddr (row : Fin 8) (device : Nat) : Nat := 256 * row.val + device

/-- `FB[row][device]` read. -/
def State.fbByte (s : State) (row : Fin 8) (device : Nat) : Byte := memRead s.fb (fbAddr row device)

/-- `FB[row][device] <- v`. -/
def State.fbStore (s : State) (row : Fin 8) (device : Nat) (v : Byte) : State :=
  { s with fb := memWrite s.fb (fbAddr row device) v }

/-- The byte exists: `device < N` (10 R23). -/
def State.fbExists (s : State) (device : Nat) : Bool := decide (device < s.n.toNat)

/-! ### The chain of chips (42 R115 to R117) -/

/-- One event `S(b)` on the chain (42 R115): `b` enters chip 0's shift register, and the eight oldest bits of each enter the
next; what leaves the last chip is lost. -/
def shiftIn : Byte → List Chip → List Chip
  | _, [] => []
  | b, c :: cs =>
    { c with sr := c.sr.extractLsb' 0 8 ++ b } :: shiftIn (c.sr.extractLsb' 8 8) cs

/-- One chip at an event `L` (42 R117): with `SR = {a, v}`, `REG[a] <- v`; an address that is none of its registers is
ignored (PRESUMED, the spec's own general knowledge G3; unreachable; log 16). -/
def Chip.latch (cfg : Config) (c : Chip) : Chip :=
  if isChipRegister cfg (packetAddr c.sr) then
    { c with reg := memWrite c.reg (packetAddr c.sr).toNat (packetValue c.sr) }
  else c

/-- What one Transfer Primitive call does to the chain (42 R115, R117). `init_transfer` moves no data. -/
def wire (cfg : Config) (cs : List Chip) (e : Event) : List Chip :=
  match e with
  | .init => cs
  | .send b => shiftIn b cs
  | .latch => cs.map (Chip.latch cfg)

/-- `REG[j][a]`; a chip that is not in the chain has no registers and is given 0x00 (used only below the chain's length). -/
def State.chipReg (s : State) (j : Nat) (a : Byte) : Byte :=
  match s.chips[j]? with
  | some c => memRead c.reg a.toNat
  | none => 0#8

/-- `SR[j]`; 0 beyond the chain's length, as for `chipReg`. -/
def State.chipSr (s : State) (j : Nat) : BitVec 16 :=
  match s.chips[j]? with
  | some c => c.sr
  | none => 0#16

/-! ### Transfer Primitive calls (20 R50) -/

/-- The effect of one completed call: its event enters `T` (00 R14) and the chain sees it. -/
def State.emit (s : State) (e : Event) : State :=
  { s with trace := s.trace ++ [e], chips := wire s.cfg s.chips e }

/-- One step of the sequencer: it is done, it waits for the Transfer Primitive, or it cannot be. -/
inductive StepResult where
  | done (s : State)
  | wait
  | stop (f : Fault)
deriving DecidableEq, Repr

/-- One call fewer of those that will return (log 9). -/
def spendCredit : Option Nat → Option Nat
  | none => none
  | some k => some (k - 1)

/-- A Transfer Primitive call, the whole of it at once (00 R14): it waits when the primitive never returns from it. -/
def State.tpCall (s : State) (e : Event) : StepResult :=
  if s.tpCredit = some 0 then .wait
  else .done ({ s with tpCredit := spendCredit s.tpCredit }.emit e)

/-- `TpInit()`: the transport is set up from here on (10 R37). -/
def State.tpInit (s : State) : StepResult :=
  match s.tpCall .init with
  | .done t => .done { t with tpReady := true }
  | .wait => .wait
  | .stop f => .stop f

/-- `TpSend(b)` and `TpLatch()`: a call before `init_transfer` is a fault (93 X5; log 17). -/
def State.tpTraffic (s : State) (e : Event) : StepResult :=
  if s.tpReady then s.tpCall e else .stop .transferBeforeInit

/-! ### One primitive step (00 R13, R14) -/

/-- A write of one FB byte computed from the byte itself (20 R49). -/
def State.fbModify (s : State) (row : Fin 8) (device : Nat) (f : Byte → Byte) : StepResult :=
  if s.fbExists device then .done (s.fbStore row device (f (s.fbByte row device)))
  else .stop .noSuchByte

/-- One primitive of 00 R13. DESIGN CHOICE, safe (log 23): the FB read inside a statement (the byte a pixel write modifies, the
byte a send or a response carries) is no step of its own but part of the write, the send or the response it feeds. -/
def SeqStep.act (op : SeqStep) (s : State) : StepResult :=
  match op with
  | .writeN n => .done { s with n := n }
  | .setMode m => .done { s with mode := m }
  | .fbZero row device => s.fbModify row device (fun _ => 0#8)
  | .fbPut row device bit on => s.fbModify row device (putBit bit on)
  | .fbFlip row device bit => s.fbModify row device (flipBit bit)
  | .respond b => .done (s.respond b)
  | .respondPixel row device bit =>
      if s.fbExists device then .done (s.respond ((s.fbByte row device).getLsbD bit.val))
      else .stop .noSuchByte
  | .raise f => .done (s.raise f)
  | .tpInit => s.tpInit
  | .tpSend b => s.tpTraffic (.send b)
  | .tpSendFb row device =>
      if s.fbExists device then s.tpTraffic (.send (s.fbByte row device)) else .stop .noSuchByte
  | .tpLatch => s.tpTraffic .latch
  | .finish => .done s

/-- The sequencer advances by one (10 R28): one primitive of the list, or none while a call has not returned, or none when
Idle. The small step of the whole block is `State.tick`. -/
def State.advance (s : State) : Host.Outcome State Fault Refusal :=
  match s.seq with
  | [] => .next s
  | op :: rest =>
    match op.act { s with seq := rest } with
    | .done t => .next t
    | .wait => .next s
    | .stop f => .fault f

/-- Steps run one after another in the order written (00 R14), up to the end of the list or to a call that does not
return: then the rest of the list stays to be done, before whatever the sequencer had. -/
def runSteps : List SeqStep → State → Host.Outcome State Fault Refusal
  | [], s => .next s
  | op :: ops, s =>
    match op.act s with
    | .done t => runSteps ops t
    | .wait => .next { s with seq := (op :: ops) ++ s.seq }
    | .stop f => .fault f

/-- A busy block goes on with the steps it has (10 R28, 70 R188). -/
def State.resume (s : State) : Host.Outcome State Fault Refusal := runSteps s.seq { s with seq := [] }

/-- A command word is accepted only when the block is idle; while `busy = 1` it has no effect whatever (30 R60, R61). Its
step list is then run (00 R14; log 1). -/
def State.accept (s : State) (steps : List SeqStep) : Host.Outcome State Fault Refusal :=
  if s.busy then .next s else runSteps steps s

/-- The request at the Transfer Primitive's port (20 R50, 92 D22), if the sequencer stands at a call. -/
def State.request (s : State) : Option Event :=
  match s.seq with
  | .tpInit :: _ => some .init
  | .tpSend b :: _ => some (.send b)
  | .tpSendFb row device :: _ => some (.send (s.fbByte row device))
  | .tpLatch :: _ => some .latch
  | _ => none

/-- The chain after `rst` (70 R181, R182): the chips keep what they had, but for a call outstanding at `rst`, which may or
may not complete on the wire: a free value (93 X6; log 11). -/
def State.chipsAfterReset (s : State) : List Chip :=
  match s.request with
  | some e => if Config.outstandingCallCompletes s.free then wire s.cfg s.chips e else s.chips
  | none => s.chips

/-- `rst` (70 R180 to R182): the block's registers at their reset values, the command abandoned, no flag set, `T` empty. The
FB writes already made stay made (70 R181), though no byte is readable while `N = 0`. The parameters, the chips, the host's
words and what the Transfer Primitive will do are not the block's. -/
def State.afterReset (s : State) : State :=
  { State.reset with
    cfg := s.cfg, fb := s.fb, chips := s.chipsAfterReset, tpCredit := s.tpCredit, host := s.host, enc := s.enc,
    free := s.free + 1 }

/-! ### What the next step runs -/

/-- What a step finds to do: the reset input first, then a packet in the encoder, then the command in progress, then the
word on the command port, else nothing. -/
inductive Fetched where
  | reset
  | packet (d : Decoded)
  | busy
  | command (d : Decoded)
  | idle
deriving DecidableEq, Repr

def State.fetch (s : State) : Fetched :=
  if s.rst then .reset
  else match s.enc with
    | some w => .packet (decodePacket s.cfg w)
    | none =>
      if s.busy then .busy
      else match s.host with
        | w :: _ => .command (decodeCommand w)
        | [] => .idle

/-- An idle block begins a step, or the encoder is given a packet: the `rsp_valid` pulse of an earlier command is over (10
R33; log 12). -/
def State.beginStep (s : State) : State := { s with rspValid := false }

/-- The packet word is taken from the encoder. -/
def State.takePacket (s : State) : State := { s.beginStep with enc := none }

/-- The word on the command port is accepted: the host has it no longer (30 R60). -/
def State.takeCommand (s : State) : State := { s.beginStep with host := s.host.drop 1 }

/-- A command word with a reserved opcode is accepted, sets `F_ILLOP` and changes nothing else (30 R68, 60 R163). -/
def acceptReserved (s : State) : Host.Outcome State Fault Refusal := s.accept [.raise .illop]

/-- SendPacket(a, v) (43 R125): the register address first, then the value (20 R47). -/
def sendPacketSteps (a v : Byte) : List SeqStep := [.tpSend a, .tpSend v]

/-- A packet sent by itself: the encoder's two calls, before anything the sequencer still has (log 13). -/
def State.sendPacket (s : State) (a v : Byte) : Host.Outcome State Fault Refusal :=
  runSteps (sendPacketSteps a v) s

end Sys2Proof.Machine
end

