-- ==== Sys2Proof/Machine/Serializer.lean ====
section
/-!
DEFINITION. The row serializer and the configuration write: RowSync (42_row_serializer.md R111) and CfgWrite (43 R127) as
step lists. Neither has an opcode (30 R69).
-/

namespace Sys2Proof.Machine

/-- Device indices `N-1` down to 0: the farthest chip's packet goes first (42 R111, 90 C1). -/
def devicesDown (n : Byte) : List Nat := (List.range n.toNat).reverse

/-- RowSync(r) (42 R111): one packet per device, address `r + 1`, value the device's byte as it stands when sent, then one
latch. -/
def rowSyncSteps (n : Byte) (row : Fin 8) : List SeqStep :=
  ((devicesDown n).flatMap fun d => [.tpSend (digitReg row), .tpSendFb row d]) ++ [.tpLatch]

/-- CfgWrite(a, v) (43 R127): N identical packets, then one latch. -/
def cfgWriteSteps (n : Byte) (a v : Byte) : List SeqStep :=
  ((devicesDown n).flatMap fun _ => sendPacketSteps a v) ++ [.tpLatch]

/-- `for r in 0..7: for d in 0..N-1: FB[r][d] <- 0x00` (41 R97); the order of these writes is not observable. -/
def zeroSteps (n : Byte) : List SeqStep :=
  rows.flatMap fun r => (List.range n.toNat).map fun d => .fbZero r d

/-- ClearAll (41 R97): all bytes zeroed, then rows 0..7 synchronised in ascending order. -/
def clearAllSteps (n : Byte) : List SeqStep := zeroSteps n ++ rows.flatMap (rowSyncSteps n)

end Sys2Proof.Machine
end

