-- ==== Sys2Proof/Machine/Canvas.lean ====
section
/-!
DEFINITION. framebuffer_canvas (41_framebuffer_canvas.md): SET_PIXEL, GET_PIXEL, TOGGLE_PIXEL, CLEAR.
-/

namespace Sys2Proof.Machine

/-- SetPix(x, y, v) (41 R91), also the blitter's inner call: nothing at all out of range, else one bit of FB and then
RowSync of the row, whether or not the bit changed (41 R92). -/
def setPixSteps (n : Byte) (x y : Int) (on : Bool) : List SeqStep :=
  match locate n x y with
  | none => []
  | some p => .fbPut p.row p.device p.bit on :: rowSyncSteps n p.row

/-- The common prologue (41 R90): outside OPER the command raises `F_SEQ` and does nothing else. -/
def operSteps (s : State) (steps : List SeqStep) : List SeqStep :=
  if s.mode = .oper then steps else [.raise .seq]

/-- The step list of SET_PIXEL. -/
def setPixelSteps (s : State) (x y : Int) (on : Bool) : List SeqStep := operSteps s (setPixSteps s.n x y on)

/-- SET_PIXEL `x, y, on` (41 R91, R92). -/
def execSetPixel (x y : Int) (on : Bool) (s : State) : Host.Outcome State Fault Refusal :=
  s.accept (setPixelSteps s x y on)

/-- The steps of GET_PIXEL in OPER (41 R93, R94): responds the bit, or 0 out of range without a read. -/
def getPixSteps (n : Byte) (x y : Int) : List SeqStep :=
  match locate n x y with
  | none => [.respond false]
  | some p => [.respondPixel p.row p.device p.bit]

/-- The step list of GET_PIXEL: outside OPER it responds 0 and raises `F_SEQ`. -/
def getPixelSteps (s : State) (x y : Int) : List SeqStep :=
  if s.mode = .oper then getPixSteps s.n x y else [.respond false, .raise .seq]

/-- GET_PIXEL `x, y` (41 R93, R94). -/
def execGetPixel (x y : Int) (s : State) : Host.Outcome State Fault Refusal :=
  s.accept (getPixelSteps s x y)

/-- The steps of TOGGLE_PIXEL in OPER (41 R95). -/
def togglePixSteps (n : Byte) (x y : Int) : List SeqStep :=
  match locate n x y with
  | none => []
  | some p => .fbFlip p.row p.device p.bit :: rowSyncSteps n p.row

/-- The step list of TOGGLE_PIXEL. -/
def togglePixelSteps (s : State) (x y : Int) : List SeqStep := operSteps s (togglePixSteps s.n x y)

/-- TOGGLE_PIXEL `x, y` (41 R95, R96). -/
def execTogglePixel (x y : Int) (s : State) : Host.Outcome State Fault Refusal :=
  s.accept (togglePixelSteps s x y)

/-- The step list of CLEAR. -/
def clearSteps (s : State) : List SeqStep := operSteps s (clearAllSteps s.n)

/-- CLEAR (41 R97, R98). -/
def execClear (s : State) : Host.Outcome State Fault Refusal :=
  s.accept (clearSteps s)

end Sys2Proof.Machine
end

