-- ==== Sys2Proof/Machine/Blit.lean ====
section
/-!
DEFINITION. sprite_blitter_unit (44_sprite_blitter_unit.md): BLIT, unbatched (R141) and batched (R145).
-/

namespace Sys2Proof.Machine

/-- BLIT with `BLIT_BATCHED = 0` (44 R141): a whole SetPix per source bit, row-major, opaque (44 R140, 90 C2). -/
def blitEachSteps (n : Byte) (offsetX offsetY : Int) (sprite : Sprite) : List SeqStep :=
  spriteCells.flatMap fun rc =>
    setPixSteps n (targetX offsetX rc.2) (targetY offsetY rc.1) (spriteBit sprite rc.1 rc.2)

/-- The FB write of one source bit of a batched blit (44 R145): no row sync. -/
def putPixSteps (n : Byte) (x y : Int) (on : Bool) : List SeqStep :=
  match locate n x y with
  | none => []
  | some p => [.fbPut p.row p.device p.bit on]

/-- BLIT with `BLIT_BATCHED = 1` (44 R145): all FB writes, then one RowSync per affected canvas row, ascending. -/
def blitBatchedSteps (n : Byte) (offsetX offsetY : Int) (sprite : Sprite) : List SeqStep :=
  (spriteCells.flatMap fun rc =>
    putPixSteps n (targetX offsetX rc.2) (targetY offsetY rc.1) (spriteBit sprite rc.1 rc.2))
  ++ (rows.filter (touched n offsetX offsetY)).flatMap (rowSyncSteps n)

/-- The step list of BLIT, in the form the synthesis parameter selects (00 R9). -/
def blitSteps (s : State) (offsetX offsetY : Int) (sprite : Sprite) : List SeqStep :=
  operSteps s
    (if s.cfg.blitBatched then blitBatchedSteps s.n offsetX offsetY sprite
     else blitEachSteps s.n offsetX offsetY sprite)

/-- BLIT `offset_x, offset_y, sprite` (44 R140 to R149). -/
def execBlit (offsetX offsetY : Int) (sprite : Sprite) (s : State) : Host.Outcome State Fault Refusal :=
  s.accept (blitSteps s offsetX offsetY sprite)

end Sys2Proof.Machine
end

