-- ==== Sys2Proof/Machine/Init.lean ====
section
/-!
DEFINITION. INIT (43_protocol_encoder_init.md R128 to R134).
-/

namespace Sys2Proof.Machine

/-- A legal INIT after its checks (43 R131): N and FB, CONFIG, `init_transfer`, the six items of the fixed sequence (43
R128), OPER. -/
def initSequence (cfg : Config) (n : Byte) : List SeqStep :=
  [.writeN n] ++ zeroSteps n ++ [.setMode .config, .tpInit]
    ++ cfgWriteSteps n cfg.regScanLimit cfg.valScanAll
    ++ cfgWriteSteps n cfg.regDisplayTest cfg.valTestOff
    ++ cfgWriteSteps n cfg.regDecodeMode cfg.valDecodeRaw
    ++ clearAllSteps n
    ++ cfgWriteSteps n cfg.regIntensity cfg.valIntensityMax
    ++ cfgWriteSteps n cfg.regShutdown cfg.valNormalOp
    ++ [.setMode .oper]

/-- A legal device count, the check made on the whole 16-bit value (00 R6, 30 R64). -/
def legalCount (cfg : Config) (deviceCount : Nat) : Bool :=
  decide (1 ≤ deviceCount ∧ deviceCount ≤ cfg.nMax.toNat)

/-- The step list of INIT (43 R131, R133): the mode check first, then the count check (60 R165). -/
def initSteps (s : State) (deviceCount : Nat) : List SeqStep :=
  if s.mode ≠ .uninit then [.raise .seq]
  else if legalCount s.cfg deviceCount then initSequence s.cfg (BitVec.ofNat 8 deviceCount)
  else [.raise .badn]

/-- INIT `n` (43 R131, R133). -/
def execInit (deviceCount : Nat) (s : State) : Host.Outcome State Fault Refusal :=
  s.accept (initSteps s deviceCount)

end Sys2Proof.Machine
end

