-- ==== Sys2Proof/Machine/Packets.lean ====
section
/-!
DEFINITION. The thirteen packet kinds (30_encoding.md R72): each is SendPacket (43 R125) of its register address and the
value. What a packet does to a chip happens at the next latch (42 R117). How a packet comes to run alone: log 13.
-/

namespace Sys2Proof.Machine

/-- DIGIT0 (30 R72, 42 R111): the packet of row 0's digit register, address 1. -/
def execDigit0 (value : Byte) (s : State) : Host.Outcome State Fault Refusal :=
  s.sendPacket (digitReg 0) value

/-- DIGIT1 (30 R72, 42 R111): the packet of row 1's digit register, address 2. -/
def execDigit1 (value : Byte) (s : State) : Host.Outcome State Fault Refusal :=
  s.sendPacket (digitReg 1) value

/-- DIGIT2 (30 R72, 42 R111): the packet of row 2's digit register, address 3. -/
def execDigit2 (value : Byte) (s : State) : Host.Outcome State Fault Refusal :=
  s.sendPacket (digitReg 2) value

/-- DIGIT3 (30 R72, 42 R111): the packet of row 3's digit register, address 4. -/
def execDigit3 (value : Byte) (s : State) : Host.Outcome State Fault Refusal :=
  s.sendPacket (digitReg 3) value

/-- DIGIT4 (30 R72, 42 R111): the packet of row 4's digit register, address 5. -/
def execDigit4 (value : Byte) (s : State) : Host.Outcome State Fault Refusal :=
  s.sendPacket (digitReg 4) value

/-- DIGIT5 (30 R72, 42 R111): the packet of row 5's digit register, address 6. -/
def execDigit5 (value : Byte) (s : State) : Host.Outcome State Fault Refusal :=
  s.sendPacket (digitReg 5) value

/-- DIGIT6 (30 R72, 42 R111): the packet of row 6's digit register, address 7. -/
def execDigit6 (value : Byte) (s : State) : Host.Outcome State Fault Refusal :=
  s.sendPacket (digitReg 6) value

/-- DIGIT7 (30 R72, 42 R111): the packet of row 7's digit register, address 8. -/
def execDigit7 (value : Byte) (s : State) : Host.Outcome State Fault Refusal :=
  s.sendPacket (digitReg 7) value

/-- SCAN_LIMIT (30 R72, 43 R128): the packet of the register at the parameter `regScanLimit`. -/
def execScanLimit (value : Byte) (s : State) : Host.Outcome State Fault Refusal :=
  s.sendPacket s.cfg.regScanLimit value

/-- DISPLAY_TEST (30 R72, 43 R128): the packet of the register at the parameter `regDisplayTest`. -/
def execDisplayTest (value : Byte) (s : State) : Host.Outcome State Fault Refusal :=
  s.sendPacket s.cfg.regDisplayTest value

/-- DECODE_MODE (30 R72, 43 R128): the packet of the register at the parameter `regDecodeMode`. -/
def execDecodeMode (value : Byte) (s : State) : Host.Outcome State Fault Refusal :=
  s.sendPacket s.cfg.regDecodeMode value

/-- INTENSITY (30 R72, 43 R128): the packet of the register at the parameter `regIntensity`. -/
def execIntensity (value : Byte) (s : State) : Host.Outcome State Fault Refusal :=
  s.sendPacket s.cfg.regIntensity value

/-- SHUTDOWN (30 R72, 43 R128): the packet of the register at the parameter `regShutdown`. -/
def execShutdown (value : Byte) (s : State) : Host.Outcome State Fault Refusal :=
  s.sendPacket s.cfg.regShutdown value

end Sys2Proof.Machine
end

