-- ==== Sys2Proof/Machine/Dispatch.lean ====
section
/-!
DEFINITION. The dispatch: one arm per constructor of Instr.
-/

namespace Sys2Proof.Machine

/-- What an instruction does. -/
def exec (i : Instr) (s : State) : Host.Outcome State Fault Refusal :=
  match i with
  | .init n => Sys2Proof.Machine.execInit n s
  | .setPixel x y on => Sys2Proof.Machine.execSetPixel x y on s
  | .getPixel x y => Sys2Proof.Machine.execGetPixel x y s
  | .togglePixel x y => Sys2Proof.Machine.execTogglePixel x y s
  | .clear => Sys2Proof.Machine.execClear s
  | .blit ox oy sprite => Sys2Proof.Machine.execBlit ox oy sprite s
  | .digit0 v => Sys2Proof.Machine.execDigit0 v s
  | .digit1 v => Sys2Proof.Machine.execDigit1 v s
  | .digit2 v => Sys2Proof.Machine.execDigit2 v s
  | .digit3 v => Sys2Proof.Machine.execDigit3 v s
  | .digit4 v => Sys2Proof.Machine.execDigit4 v s
  | .digit5 v => Sys2Proof.Machine.execDigit5 v s
  | .digit6 v => Sys2Proof.Machine.execDigit6 v s
  | .digit7 v => Sys2Proof.Machine.execDigit7 v s
  | .scanLimit v => Sys2Proof.Machine.execScanLimit v s
  | .displayTest v => Sys2Proof.Machine.execDisplayTest v s
  | .decodeMode v => Sys2Proof.Machine.execDecodeMode v s
  | .intensity v => Sys2Proof.Machine.execIntensity v s
  | .shutdown v => Sys2Proof.Machine.execShutdown v s

end Sys2Proof.Machine
end

