-- ==== Sys2Proof/Machine/Sequencer.lean ====
section
/-!
DEFINITION. The sequencer at the level of 00_scope.md R10 and R14: what each instruction is unrolled into (10 R28), and the
small step of the whole block, in which the acceptance of a command is a step of its own.
-/

namespace Sys2Proof.Machine

/-- The step list an instruction is unrolled into when it is accepted (10 R28); a packet's two sends. -/
def stepList (i : Instr) (s : State) : List SeqStep :=
  match i with
  | .init n => initSteps s n
  | .setPixel x y on => setPixelSteps s x y on
  | .getPixel x y => getPixelSteps s x y
  | .togglePixel x y => togglePixelSteps s x y
  | .clear => clearSteps s
  | .blit ox oy sprite => blitSteps s ox oy sprite
  | .digit0 v => sendPacketSteps (digitReg 0) v
  | .digit1 v => sendPacketSteps (digitReg 1) v
  | .digit2 v => sendPacketSteps (digitReg 2) v
  | .digit3 v => sendPacketSteps (digitReg 3) v
  | .digit4 v => sendPacketSteps (digitReg 4) v
  | .digit5 v => sendPacketSteps (digitReg 5) v
  | .digit6 v => sendPacketSteps (digitReg 6) v
  | .digit7 v => sendPacketSteps (digitReg 7) v
  | .scanLimit v => sendPacketSteps s.cfg.regScanLimit v
  | .displayTest v => sendPacketSteps s.cfg.regDisplayTest v
  | .decodeMode v => sendPacketSteps s.cfg.regDecodeMode v
  | .intensity v => sendPacketSteps s.cfg.regIntensity v
  | .shutdown v => sendPacketSteps s.cfg.regShutdown v

/-- What an accepted command leaves the sequencer to do is never nothing, so that acceptance makes `busy` 1 (30 R60): a command
with no primitive has its end to do. -/
def orFinish : List SeqStep → List SeqStep
  | [] => [.finish]
  | op :: ops => op :: ops

/-- The step list of the word on the command port: its instruction's, or the one `raise` of a reserved opcode (30 R68). -/
def commandSteps (d : Decoded) (s : State) : List SeqStep :=
  match d with
  | .instr i => orFinish (stepList i s)
  | .reservedOpcode _ => [.raise .illop]
  | .unknownPacketAddress _ => [.raise .illop]

/-- The acceptance of a command, one step (00 R10, 30 R60): the word is latched, unrolled, and `busy` becomes 1, whatever the
command; it falls with the last of its steps. -/
def State.acceptWord (s : State) (d : Decoded) : State := { s.takeCommand with seq := commandSteps d s }

/-- One step of the block as 00 R10 and R14 count them: the reset input, sampled between any two of them; the acceptance of a
command by an idle block; one primitive of the command in progress; else nothing but the end of the response pulse. A packet
given to the encoder alone has its two sends put before what is left to do (log 13). -/
def State.tick (s : State) : Host.Outcome State Fault Refusal :=
  match s.fetch with
  | .reset => .next s.afterReset
  | .packet (.instr i) => .next { s.takePacket with seq := stepList i s ++ s.seq }
  | .packet (.unknownPacketAddress a) => .refused (.unknownPacketAddress a)
  | .packet (.reservedOpcode a) => .refused (.unknownPacketAddress a)
  | .busy => s.advance
  | .command d => .next (s.acceptWord d)
  | .idle => .next s.beginStep

end Sys2Proof.Machine
end

