-- ==== Sys2Proof/Machine/Step.lean ====
section
/-!
DEFINITION. One step of the machine: what the state finds to do (`State.fetch`), and the instruction's meaning.
A step is a whole command up to a Transfer Primitive call that does not return; its small steps, acceptance among them, are
`State.tick` (00 R10, R14; log 1).
-/

namespace Sys2Proof.Machine

/-- One step. -/
def step (s : State) : Host.Outcome State Fault Refusal :=
  match s.fetch with
  | .reset => .next s.afterReset
  | .packet (.instr i) => exec i s.takePacket
  | .packet (.unknownPacketAddress a) => .refused (.unknownPacketAddress a)
  | .packet (.reservedOpcode a) => .refused (.unknownPacketAddress a)
  | .busy => s.resume
  | .command (.instr i) => exec i s.takeCommand
  | .command (.reservedOpcode _) => acceptReserved s.takeCommand
  | .command (.unknownPacketAddress _) => acceptReserved s.takeCommand
  | .idle => .next s.beginStep

/-- The state with a word placed where the next step fetches its instruction: a 104-bit command at the head of the host's
words, before an idle block; a 16-bit packet in the encoder, the transport set up (a packet comes only after
`init_transfer`, 10 R37). The reset input is not asserted. Log 13. -/
def State.withFetchWord (s : State) (nbits w : Nat) : State :=
  if nbits = 16 then { s with enc := some (BitVec.ofNat 16 w), tpReady := true, rst := false }
  else { s with host := BitVec.ofNat 104 w :: s.host, seq := [], enc := none, rst := false }

end Sys2Proof.Machine
end

