-- ==== Sys2Proof/Safety.lean ====
section
/-!
DEFINITION. The terms in which claims are stated: premises (no fault flag, every call returns), the end of a run (70
R193), coherence of the chips with FB (42 R119), what is displayed (42 R120), the traces of the commands in closed form (42
R112, 43 R132), the small-step relation iterated (00 R14), and the invariant every step keeps.
-/

namespace Sys2Proof.Machine

/-! ### Premises and the end of a run -/

/-- No fault flag is set (60 R166). -/
def State.NoFault (s : State) : Prop := s.fSeq = false ∧ s.fIllop = false ∧ s.fBadn = false

/-- Idle in OPER, with the transport set up and every Transfer Primitive call returning: the premises of 41 R99 but for the
flags, which no command reads (60 R166). -/
def State.Ready (s : State) : Prop :=
  s.seq = [] ∧ s.mode = .oper ∧ s.tpReady = true ∧ s.tpCredit = none

/-- The end of a run (70 R193): every word accepted and `busy = 0`. -/
def State.Ended (s : State) : Prop := s.host = [] ∧ s.seq = []

/-- A good end state has no fault flag set (70 R193). -/
def State.GoodEnd (s : State) : Prop := s.Ended ∧ s.NoFault

/-- The chain holds at least N chips; that it holds exactly N is the premise of a display claim (70 R184). -/
def State.ChainReaches (s : State) : Prop := s.n.toNat ≤ s.chips.length

/-! ### Pixels -/

/-- The bit of FB at an address. -/
def State.bitAt (s : State) (p : PixelAddr) : Bool := (s.fbByte p.row p.device).getLsbD p.bit.val

/-- `get_pixel(x, y)`: the shadow's bit, 0 out of range (41 R93, R94). -/
def State.pixelOn (s : State) (x y : Int) : Bool :=
  match locate s.n x y with
  | none => false
  | some p => s.bitAt p

/-- The address is one of a byte of FB (10 R23). -/
def State.IsFbAddr (s : State) (a : Nat) : Prop := ∃ (r : Fin 8) (d : Nat), d < s.n.toNat ∧ a = fbAddr r d

/-! ### Traces in closed form -/

/-- Several completed calls. -/
def State.emits (s : State) (es : List Event) : State :=
  { s with trace := s.trace ++ es, chips := es.foldl (wire s.cfg) s.chips }

/-- `P(a, v)` (30 R71). -/
def packetEvents (a v : Byte) : List Event := [.send a, .send v]

/-- The trace of RowSync (42 R112). -/
def State.rowSyncEvents (s : State) (r : Fin 8) : List Event :=
  ((devicesDown s.n).flatMap fun d => packetEvents (digitReg r) (s.fbByte r d)) ++ [.latch]

/-- `P(a, v)^n L` (43 R127, R132). -/
def equalPackets (n : Nat) (a v : Byte) : List Event :=
  (List.replicate n (packetEvents a v)).flatten ++ [.latch]

/-- The eight row syncs of a canvas of zeros (41 R97). -/
def clearEvents (n : Nat) : List Event := rows.flatMap fun r => equalPackets n (digitReg r) 0#8

/-- The trace of a legal INIT (43 R132). -/
def initEvents (c : Config) (n : Nat) : List Event :=
  [.init] ++ equalPackets n c.regScanLimit c.valScanAll ++ equalPackets n c.regDisplayTest c.valTestOff
    ++ equalPackets n c.regDecodeMode c.valDecodeRaw ++ clearEvents n
    ++ equalPackets n c.regIntensity c.valIntensityMax ++ equalPackets n c.regShutdown c.valNormalOp

/-- How many sends, latches and inits a trace holds (70 R192). -/
def sendCount (es : List Event) : Nat := es.countP fun e => match e with | .send _ => true | _ => false
def latchCount (es : List Event) : Nat := es.countP fun e => match e with | .latch => true | _ => false
def initCount (es : List Event) : Nat := es.countP fun e => match e with | .init => true | _ => false

/-- Every latch comes after exactly `2·N` sends since the one before (20 R51), each address byte is one of the thirteen (20
R42), and `init_transfer` interrupts no set. `k` is the number of bytes sent since the last latch. -/
def framed (c : Config) (n : Nat) : Nat → List Event → Bool
  | _, [] => true
  | k, .init :: es => decide (k = 0) && framed c n 0 es
  | k, .send b :: es =>
      (decide (k % 2 = 1) || isChipRegister c b) && decide (k < 2 * n) && framed c n (k + 1) es
  | k, .latch :: es => decide (k = 2 * n) && framed c n 0 es

/-! ### Effects of the pixel operations, in one equation each -/

/-- FB with one byte replaced, the row then sent and latched. -/
def State.storeAndSync (s : State) (r : Fin 8) (d : Nat) (v : Byte) : State :=
  (s.fbStore r d v).emits ((s.fbStore r d v).rowSyncEvents r)

/-- The effect of `SetPix(x, y, on)` when every call returns (41 R91). -/
def State.setPix (s : State) (x y : Int) (on : Bool) : State :=
  match locate s.n x y with
  | none => s
  | some p => s.storeAndSync p.row p.device (putBit p.bit on (s.fbByte p.row p.device))

/-- The effect of TOGGLE_PIXEL when every call returns (41 R95). -/
def State.flipPix (s : State) (x y : Int) : State :=
  match locate s.n x y with
  | none => s
  | some p => s.storeAndSync p.row p.device (flipBit p.bit (s.fbByte p.row p.device))

/-- The FB write of `SetPix` without its row sync (44 R145). -/
def State.putPix (s : State) (x y : Int) (on : Bool) : State :=
  match locate s.n x y with
  | none => s
  | some p => s.fbStore p.row p.device (putBit p.bit on (s.fbByte p.row p.device))

/-- A source bit of a sprite has its target on the canvas (44 R143). -/
def spriteInRange (n : Byte) (ox oy : Int) (r c : Fin 8) : Bool := valid n (targetX ox c) (targetY oy r)

/-! ### The chain and the display -/

/-- The concatenation `C` of the shift registers, chip 0 least significant (42 R115). -/
def chainValue : List Chip → Nat
  | [] => 0
  | c :: cs => c.sr.toNat + 65536 * chainValue cs

/-- The coherence of the chips' digit registers with FB (42 R119). -/
def State.Coherent (s : State) : Prop :=
  ∀ (r : Fin 8) (d : Nat), d < s.n.toNat → s.chipReg d (digitReg r) = s.fbByte r d

/-- A chip that is in the chain, configured as INIT leaves it (43 R134). -/
def State.chipConfigured (s : State) (j : Nat) : Bool :=
  decide (j < s.chips.length ∧ s.chipReg j s.cfg.regScanLimit = s.cfg.valScanAll ∧ s.chipReg j s.cfg.regDisplayTest = s.cfg.valTestOff
    ∧ s.chipReg j s.cfg.regDecodeMode = s.cfg.valDecodeRaw ∧ s.chipReg j s.cfg.regIntensity = s.cfg.valIntensityMax
    ∧ s.chipReg j s.cfg.regShutdown = s.cfg.valNormalOp)

/-- The LED at column `x`, row `y` of the physical canvas (42 R120), where the spec says what it shows: its chip `x div 8`
in the chain (70 R184) and configured, lit iff the bit of the same column is set in the digit register of row `y`, bit 7 at the left. -/
def State.ledLit (s : State) (x : Nat) (y : Fin 8) : Option Bool :=
  if s.chipConfigured (x / 8) then some ((s.chipReg (x / 8) (digitReg y)).getLsbD (7 - x % 8)) else none

/-! ### Small steps -/

/-- `k` small steps of the block (00 R10, R14). -/
def ticks : Nat → State → Host.Outcome State Fault Refusal
  | 0, s => .next s
  | k + 1, s =>
    match s.tick with
    | .next t => ticks k t
    | .fault f => .fault f
    | .refused r => .refused r

/-- `k` steps of the sequencer alone, inside one command (10 R28). -/
def advances : Nat → State → Host.Outcome State Fault Refusal
  | 0, s => .next s
  | k + 1, s =>
    match s.advance with
    | .next t => advances k t
    | .fault f => .fault f
    | .refused r => .refused r

/-- The word on the port of an idle block in UNINIT is a legal INIT of this count (43 R131). -/
def State.AcceptsInit (s : State) (count : Nat) : Prop :=
  s.seq = [] ∧ s.mode = .uninit ∧ legalCount s.cfg count = true ∧
    ∃ w ws, s.host = w :: ws ∧ decodeCommand w = .instr (.init count)

/-- The word on the port of an idle block is GET_PIXEL `x, y`. -/
def State.AcceptsGetPixel (s : State) (x y : Int) : Prop :=
  s.seq = [] ∧ ∃ w ws, s.host = w :: ws ∧ decodeCommand w = .instr (.getPixel x y)

/-- The next state of an outcome changed by `f`, a stop left as it is. -/
def mapNext (f : State → State) : Host.Outcome State Fault Refusal → Host.Outcome State Fault Refusal
  | .next s => .next (f s)
  | .fault r => .fault r
  | .refused r => .refused r

/-- The fault a command word raises, at most one, in the order of 60 R165: opcode, mode, count. -/
def faultOf (s : State) (w : CommandWord) : Option FaultFlag :=
  match decodeCommand w with
  | .reservedOpcode _ => some .illop
  | .unknownPacketAddress _ => none
  | .instr (.init count) =>
    if s.mode ≠ .uninit then some .seq else if legalCount s.cfg count then none else some .badn
  | .instr _ => if s.mode ≠ .oper then some .seq else none

/-! ### What commands leave alone -/

/-- The fields a command other than INIT and GET_PIXEL leaves as they are, whatever it does: all but FB, the sequencer, the
trace, the chips' contents, the calls left and `F_SEQ`. -/
def State.SameControl (s t : State) : Prop :=
  t.cfg = s.cfg ∧ t.n = s.n ∧ t.mode = s.mode ∧ t.fIllop = s.fIllop ∧ t.fBadn = s.fBadn ∧ t.rsp = s.rsp ∧
    t.rspValid = s.rspValid ∧ t.tpReady = s.tpReady ∧ t.host = s.host ∧ t.rst = s.rst ∧ t.enc = s.enc ∧
    t.free = s.free ∧ t.chips.length = s.chips.length

/-! ### The invariant -/

/-- A step that may be left to do while a command that makes calls is in progress: an FB access to a byte that exists, a send or a latch. -/
def SeqStep.inBody (n : Byte) : SeqStep → Bool
  | .writeN _ => false
  | .setMode _ => false
  | .fbZero _ d => decide (d < n.toNat)
  | .fbPut _ d _ _ => decide (d < n.toNat)
  | .fbFlip _ d _ => decide (d < n.toNat)
  | .respond _ => false
  | .respondPixel _ _ _ => false
  | .raise _ => false
  | .tpInit => false
  | .tpSend _ => true
  | .tpSendFb _ d => decide (d < n.toNat)
  | .tpLatch => true
  | .finish => false

/-- A step that zeroes a byte that exists. -/
def SeqStep.zeroes (n : Byte) : SeqStep → Bool
  | .fbZero _ d => decide (d < n.toNat)
  | .writeN _ => false
  | .setMode _ => false
  | .fbPut _ _ _ _ => false
  | .fbFlip _ _ _ => false
  | .respond _ => false
  | .respondPixel _ _ _ => false
  | .raise _ => false
  | .tpInit => false
  | .tpSend _ => false
  | .tpSendFb _ _ => false
  | .tpLatch => false
  | .finish => false

/-- A step that responds. -/
def SeqStep.responds : SeqStep → Bool
  | .respond _ => true
  | .respondPixel _ _ _ => true
  | .writeN _ => false
  | .setMode _ => false
  | .fbZero _ _ => false
  | .fbPut _ _ _ _ => false
  | .fbFlip _ _ _ => false
  | .raise _ => false
  | .tpInit => false
  | .tpSend _ => false
  | .tpSendFb _ _ => false
  | .tpLatch => false
  | .finish => false

/-- What an accepted GET_PIXEL, a command that raises a fault, or one with nothing to do is unrolled into, and what of it can be
left. -/
def IsReply (n : Byte) (q : List SeqStep) : Prop :=
  (∃ b, q = [.respond b]) ∨ (∃ r d k, d < n.toNat ∧ q = [.respondPixel r d k]) ∨ (∃ f, q = [.raise f]) ∨
    (∃ b f, q = [.respond b, .raise f]) ∨ q = [.finish]

/-- What a legal INIT has to do from its `mode <- CONFIG` on, before `init_transfer` has returned (43 R131). -/
def IsInitTail (n : Byte) (q : List SeqStep) : Prop :=
  ∃ body : List SeqStep, body.all (SeqStep.inBody n) = true ∧
    q = [.setMode .config, .tpInit] ++ body ++ [.setMode .oper]

/-- An accepted INIT that is still in UNINIT: N to be written, or N written and FB being zeroed (43 R131). -/
def State.InitPending (s : State) : Prop :=
  ∃ (k : Byte) (zeros tail : List SeqStep), k ≠ 0#8 ∧ k.toNat ≤ s.cfg.nMax.toNat ∧
    zeros.all (SeqStep.zeroes k) = true ∧ IsInitTail k tail ∧
    (s.n = 0#8 ∧ s.seq = .writeN k :: zeros ++ tail ∨ s.n = k ∧ s.seq = zeros ++ tail)

/-- What the sequencer can have left to do in each mode, between any two small steps: in UNINIT nothing, a reply, a fault or an end,
with `N = 0`, or an accepted INIT; in CONFIG the rest of INIT, ending in OPER, `init_transfer` first if it has not returned;
in OPER sends, latches and writes, or a reply, a fault or an end. -/
def State.SeqInv (s : State) : Prop :=
  match s.mode with
  | .uninit => s.n = 0#8 ∧ (s.seq = [] ∨ IsReply s.n s.seq) ∨ s.InitPending
  | .config => ∃ body : List SeqStep, body.all (SeqStep.inBody s.n) = true ∧
      s.seq = (if s.tpReady then [] else [.tpInit]) ++ body ++ [.setMode .oper]
  | .oper => s.seq.all (SeqStep.inBody s.n) = true ∨ IsReply s.n s.seq

/-- FB is canonical and lists only bytes of the physical memory, `8·N_MAX` of them (10 R23). -/
def State.FbInv (s : State) : Prop :=
  memWf s.fb = true ∧ ∀ c ∈ s.fb, c.1 / 256 < 8 ∧ c.1 % 256 < s.cfg.nMax.toNat

/-- Every chip's register file is canonical and lists only its thirteen registers. -/
def State.ChipsInv (s : State) : Prop :=
  ∀ chip ∈ s.chips, memWf chip.reg = true ∧
    ∀ c ∈ chip.reg, c.1 < 256 ∧ isChipRegister s.cfg (BitVec.ofNat 8 c.1) = true

/-- The invariant every step keeps, the small steps too: canonical memories, `N` within `N_MAX`, UNINIT whenever `N = 0` (10
R21), the transport set up in OPER and not in UNINIT, CONFIG only with INIT in progress (10 R22), nothing injected into the
encoder (log 13). -/
def State.Inv (s : State) : Prop :=
  s.FbInv ∧ s.ChipsInv ∧ s.n.toNat ≤ s.cfg.nMax.toNat ∧ (s.n = 0#8 → s.mode = .uninit) ∧
    (s.mode = .oper → s.tpReady = true) ∧ (s.mode = .uninit → s.tpReady = false) ∧ s.SeqInv ∧ s.enc = none

end Sys2Proof.Machine
end

