-- ==== Sys2Proof/Certificates/Slice0/Obligations.lean ====
section
/-!
DEFINITION. The statements for the provers. OBLIGATIONS.json gives each its id, rule and quote. A statement without the
premise that no fault flag is set holds with and without one; 60 R166 asks claims to take it as a premise, which any reader
of these may add.
-/

open Sys2Proof Sys2Proof.Machine

/-! ### Encoding and decoding -/

/-- Words written out from the encodings of 30 R62 to R72 and the vectors of 95 decode to what they stand for.
The packets hold for every choice of the parameters: a digit register's address is 00 R8's own, and each configuration
register's is its parameter, no number (log 7; that the five differ is log 14). -/
def Obligations.SpecWordsDecode : Prop :=
  decodeCommand 0x01000200000000000000000000#104 = .instr (.init 2) ∧
  decodeCommand 0x01010000000000000000000000#104 = .instr (.init 256) ∧
  decodeCommand 0x02000900030000000000000001#104 = .instr (.setPixel 9 3 true) ∧
  decodeCommand 0x0200090003FFFFFFFFFFFFFFFE#104 = .instr (.setPixel 9 3 false) ∧
  decodeCommand 0x02FFFF00000000000000000001#104 = .instr (.setPixel (-1) 0 true) ∧
  decodeCommand 0x03001000030000000000000000#104 = .instr (.getPixel 16 3) ∧
  decodeCommand 0x04000900030000000000000000#104 = .instr (.togglePixel 9 3) ∧
  decodeCommand 0x05123456789ABCDEF012345678#104 = .instr (.clear) ∧
  decodeCommand 0x06000CFFFD183C7EFFFF7E3C18#104 = .instr (.blit 12 (-3) 0x183C7EFFFF7E3C18#64) ∧
  decodeCommand 0x00000000000000000000000000#104 = .reservedOpcode 0x00#8 ∧
  decodeCommand 0x07000000000000000000000000#104 = .reservedOpcode 0x07#8 ∧
  (∀ c : Config, decodePacket c 0x0680#16 = .instr (.digit5 0x80#8)) ∧
  (∀ (c : Config) (v : Byte), c.wf = true →
    decodePacket c (c.regScanLimit ++ v) = .instr (.scanLimit v) ∧
    decodePacket c (c.regDisplayTest ++ v) = .instr (.displayTest v) ∧
    decodePacket c (c.regDecodeMode ++ v) = .instr (.decodeMode v) ∧
    decodePacket c (c.regIntensity ++ v) = .instr (.intensity v) ∧
    decodePacket c (c.regShutdown ++ v) = .instr (.shutdown v))

/-- Decoding the encoding of a well-formed instruction gives it back, every operand at every value (30 R62 to R72). -/
def Obligations.DecodeInvertsEncode : Prop :=
  ∀ (c : Config) (i : Instr), c.wf = true → i.wf = true → decode c (encode c i) = .instr i

/-- Exactly the reserved opcodes are refused, by name (30 R67, R68). Exactly the packet addresses that are none of the
thirteen of 30 R72 are refused, by name: that such a packet is refused is the model's choice (log 21), 30 R73 puts it outside
the spec. -/
def Obligations.ReservedWordsRefused : Prop :=
  (∀ w : CommandWord, (∃ op, decodeCommand w = .reservedOpcode op) ↔ opField w = 0x00#8 ∨ 7 ≤ (opField w).toNat) ∧
  (∀ (w : CommandWord) (op : Byte), decodeCommand w = .reservedOpcode op → op = opField w) ∧
  (∀ (c : Config) (w : PacketWord),
    (∃ a, decodePacket c w = .unknownPacketAddress a) ↔ isChipRegister c (packetAddr w) = false) ∧
  (∀ (c : Config) (w : PacketWord) (a : Byte), decodePacket c w = .unknownPacketAddress a → a = packetAddr w)

/-- The decoder reads each operand from its field of the command word, and what stands in a field the format does not use
makes no difference (30 R62 to R67). -/
def Obligations.DecoderReadsFields : Prop :=
  ∀ (a b : BitVec 16) (p : BitVec 64),
    decodeCommand (mkCommand 0x01#8 a b p) = .instr (.init a.toNat) ∧
    decodeCommand (mkCommand 0x02#8 a b p) = .instr (.setPixel a.toInt b.toInt (p.getLsbD 0)) ∧
    decodeCommand (mkCommand 0x03#8 a b p) = .instr (.getPixel a.toInt b.toInt) ∧
    decodeCommand (mkCommand 0x04#8 a b p) = .instr (.togglePixel a.toInt b.toInt) ∧
    decodeCommand (mkCommand 0x05#8 a b p) = .instr .clear ∧
    decodeCommand (mkCommand 0x06#8 a b p) = .instr (.blit a.toInt b.toInt p)

/-- Row `r` of a sprite is the byte `p[63-8r : 56-8r]`, its left-most column in the most significant bit (30 R66). -/
def Obligations.SpriteRowIsByte : Prop :=
  ∀ (p : Sprite) (r c : Fin 8),
    (p.extractLsb' (56 - 8 * r.val) 8).getLsbD (7 - c.val) = spriteBit p r c ∧
    spriteBit p 0 0 = p.getLsbD 63 ∧ spriteBit p 0 7 = p.getLsbD 56 ∧ spriteBit p 7 7 = p.getLsbD 0

/-! ### The pixel address decoder -/

/-- The address function is a bijection of the valid coordinates onto the bits of FB, with the inverse, the shared bytes and
the order of columns the rule gives (40 R84). -/
def Obligations.AddressIsBijection : Prop :=
  (∀ (n : Byte) (x y : Int), valid n x y = true →
    (address x y).device < n.toNat ∧ (address x y).coord = (x, y)) ∧
  (∀ (n : Byte) (p : PixelAddr), p.device < n.toNat →
    valid n p.coord.1 p.coord.2 = true ∧ address p.coord.1 p.coord.2 = p) ∧
  (∀ (n : Byte) (x y x' y' : Int), valid n x y = true → valid n x' y' = true →
    ((address x y).row = (address x' y').row ∧ (address x y).device = (address x' y').device ↔
      y = y' ∧ x / 8 = x' / 8)) ∧
  (∀ (n : Byte) (x x' y : Int), valid n x y = true → valid n x' y = true →
    (x < x' ↔ (address x y).device < (address x' y).device ∨
      (address x y).device = (address x' y).device ∧ (address x' y).bit < (address x y).bit))

/-- The bit-level form of the decoder agrees with the integer form on every pair of 16-bit words (40 R85). -/
def Obligations.BitLevelDecoderAgrees : Prop :=
  ∀ (n : Byte) (xw yw : BitVec 16),
    validBits n xw yw = valid n xw.toInt yw.toInt ∧
    (valid n xw.toInt yw.toInt = true → addressBits xw yw = address xw.toInt yw.toInt)

/-- An out-of-range coordinate is a silent no-op: no address, no FB access, no call, no flag; GET_PIXEL responds 0
(40 R83, 41 R94, 60 R167 (a)). -/
def Obligations.OutOfRangeIsSilent : Prop :=
  ∀ (s : State) (x y : Int) (on : Bool), s.seq = [] → s.mode = .oper → valid s.n x y = false →
    locate s.n x y = none ∧ exec (.setPixel x y on) s = .next s ∧ exec (.togglePixel x y) s = .next s ∧
    exec (.getPixel x y) s = .next (s.respond false)

/-! ### One step -/

/-- A step runs the decoded instruction: an idle block runs the word on the command port, the encoder the packet it was
given; a busy block goes on with its steps; with nothing to do only the response pulse ends. What the step adds around `exec`
is the model's (log 10, 12, 13). -/
def Obligations.StepRunsInstruction : Prop :=
  (∀ (s : State) (i : Instr) (w : CommandWord) (ws : List CommandWord), s.rst = false → s.enc = none → s.seq = [] →
    s.host = w :: ws → decodeCommand w = .instr i →
    step s = exec i { s with host := ws, rspValid := false }) ∧
  (∀ (s : State) (i : Instr) (w : PacketWord), s.rst = false → s.enc = some w → decodePacket s.cfg w = .instr i →
    step s = exec i { s with enc := none, rspValid := false }) ∧
  (∀ s : State, s.rst = false → s.enc = none → s.seq ≠ [] →
    step s = runSteps s.seq { s with seq := [] }) ∧
  (∀ s : State, s.rst = false → s.enc = none → s.seq = [] → s.host = [] →
    step s = .next { s with rspValid := false })

/-- A command word with a reserved opcode is accepted, sets `F_ILLOP` and does nothing else of the block's, in any mode (60
R163, R161, 30 R68). That the word leaves the host's list and that an earlier response pulse ends are the model's (log 10,
12). -/
def Obligations.ReservedOpcodeSetsIllop : Prop :=
  ∀ (s : State) (w : CommandWord) (ws : List CommandWord), s.rst = false → s.enc = none → s.seq = [] →
    s.host = w :: ws → (opField w = 0x00#8 ∨ 7 ≤ (opField w).toNat) →
    step s = .next { s with host := ws, rspValid := false, fIllop := true }

/-- While `busy = 1` a command word has no effect whatever: its meaning changes nothing, and the step of a busy block is the
same whatever words the host presents (30 R61). -/
def Obligations.BusyBlockIgnoresCommands : Prop :=
  (∀ (i : Instr) (s : State), i.isCommand = true → s.seq ≠ [] → exec i s = .next s) ∧
  (∀ (s : State) (ws : List CommandWord), s.rst = false → s.enc = none → s.seq ≠ [] →
    step { s with host := ws } = mapNext (fun t => { t with host := ws }) (step s))

/-! ### Results of the commands, every Transfer Primitive call returning -/

/-- SET_PIXEL completes with the effect of 41 R91: out of range nothing, else one byte of FB replaced by the byte with one
bit made `on`, and the row sent and latched. -/
def Obligations.SetPixelResult : Prop :=
  ∀ (s : State) (x y : Int) (on : Bool), s.Ready →
    exec (.setPixel x y on) s = .next (s.setPix x y on)

/-- TOGGLE_PIXEL completes with the effect of 41 R95. -/
def Obligations.TogglePixelResult : Prop :=
  ∀ (s : State) (x y : Int), s.Ready → exec (.togglePixel x y) s = .next (s.flipPix x y)

/-- GET_PIXEL completes, in OPER and idle whatever the Transfer Primitive does, responding the shadow's bit, 0 out of range,
and touching nothing else (41 R93, R94). -/
def Obligations.GetPixelResult : Prop :=
  ∀ (s : State) (x y : Int), s.seq = [] → s.mode = .oper →
    exec (.getPixel x y) s = .next (s.respond (s.pixelOn x y))

/-- CLEAR completes: every byte of FB zero, no other address touched, rows 0..7 sent in order, one latch each (41 R97). -/
def Obligations.ClearResult : Prop :=
  ∀ s : State, s.Ready → memWf s.fb = true →
    ∃ m : List Host.Cell,
      exec .clear s = .next ({ s with fb := m }.emits (clearEvents s.n.toNat)) ∧
      (∀ (r : Fin 8) (d : Nat), d < s.n.toNat → memRead m (fbAddr r d) = 0#8) ∧
      (∀ a : Nat, ¬ s.IsFbAddr a → memRead m a = memRead s.fb a)

/-- A legal INIT completes: N written, FB zero, OPER, the transport set up, and the trace of 43 R132 (43 R131). -/
def Obligations.InitResult : Prop :=
  ∀ (s : State) (count : Nat), s.seq = [] → s.mode = .uninit → s.tpCredit = none → memWf s.fb = true →
    1 ≤ count → count ≤ s.cfg.nMax.toNat →
    ∃ m : List Host.Cell,
      exec (.init count) s =
        .next ({ s with n := BitVec.ofNat 8 count, mode := .oper, fb := m, tpReady := true }.emits
          (initEvents s.cfg count)) ∧
      (∀ (r : Fin 8) (d : Nat), d < count → memRead m (fbAddr r d) = 0#8)

/-- BLIT with `BLIT_BATCHED = 0` completes as 64 SetPix calls, source row outer, column inner, both ascending, each bit with
its value (44 R140, R141, R142). -/
def Obligations.BlitEachResult : Prop :=
  ∀ (s : State) (ox oy : Int) (sprite : Sprite), s.Ready → s.cfg.blitBatched = false →
    exec (.blit ox oy sprite) s =
      .next (spriteCells.foldl
        (fun u rc => u.setPix ((rc.2.val : Int) + ox) ((rc.1.val : Int) + oy) (spriteBit sprite rc.1 rc.2)) s)

/-- BLIT with `BLIT_BATCHED = 1` completes: all FB writes first, then one row sync per affected canvas row, ascending
(44 R145). -/
def Obligations.BlitBatchedResult : Prop :=
  ∀ (s : State) (ox oy : Int) (sprite : Sprite), s.Ready → s.cfg.blitBatched = true →
    exec (.blit ox oy sprite) s =
      .next ((rows.filter fun y => spriteCells.any fun rc =>
          spriteInRange s.n ox oy rc.1 rc.2 && decide ((rc.1.val : Int) + oy = (y.val : Int))).foldl
        (fun u y => u.emits (u.rowSyncEvents y))
        (spriteCells.foldl
          (fun u rc => u.putPix ((rc.2.val : Int) + ox) ((rc.1.val : Int) + oy) (spriteBit sprite rc.1 rc.2)) s))

/-- The thirteen packet kinds complete: the register address is sent, then the value, and nothing else happens but on the
wire (43 R125, 30 R71, R72). -/
def Obligations.PacketsSendAddressThenValue : Prop :=
  ∀ (s : State) (v : Byte), s.tpReady = true → s.tpCredit = none →
    exec (.digit0 v) s = .next (s.emits [.send 0x01#8, .send v]) ∧
    exec (.digit1 v) s = .next (s.emits [.send 0x02#8, .send v]) ∧
    exec (.digit2 v) s = .next (s.emits [.send 0x03#8, .send v]) ∧
    exec (.digit3 v) s = .next (s.emits [.send 0x04#8, .send v]) ∧
    exec (.digit4 v) s = .next (s.emits [.send 0x05#8, .send v]) ∧
    exec (.digit5 v) s = .next (s.emits [.send 0x06#8, .send v]) ∧
    exec (.digit6 v) s = .next (s.emits [.send 0x07#8, .send v]) ∧
    exec (.digit7 v) s = .next (s.emits [.send 0x08#8, .send v]) ∧
    exec (.scanLimit v) s = .next (s.emits [.send s.cfg.regScanLimit, .send v]) ∧
    exec (.displayTest v) s = .next (s.emits [.send s.cfg.regDisplayTest, .send v]) ∧
    exec (.decodeMode v) s = .next (s.emits [.send s.cfg.regDecodeMode, .send v]) ∧
    exec (.intensity v) s = .next (s.emits [.send s.cfg.regIntensity, .send v]) ∧
    exec (.shutdown v) s = .next (s.emits [.send s.cfg.regShutdown, .send v])

/-- A packet before `init_transfer` is the model's fault `transferBeforeInit` (93 X5; log 17). -/
def Obligations.PacketBeforeInitFaults : Prop :=
  ∀ (i : Instr) (s : State), i.isCommand = false → s.tpReady = false → exec i s = .fault .transferBeforeInit

/-- The state a completed legal INIT leaves (43 R134), the chain holding at least N chips. -/
def Obligations.InitEstablishesCanvas : Prop :=
  ∀ (s : State) (count : Nat), s.cfg.wf = true → s.Inv → s.seq = [] → s.mode = .uninit → s.tpCredit = none →
    1 ≤ count → count ≤ s.cfg.nMax.toNat → count ≤ s.chips.length →
    ∃ t, exec (.init count) s = .next t ∧ t.mode = .oper ∧ t.n.toNat = count ∧
      (∀ (r : Fin 8) (d : Nat), d < count → t.fbByte r d = 0#8) ∧ (∀ f, t.flag f = s.flag f) ∧ t.busy = false ∧
      (∀ j, j < count → (∀ r, t.chipReg j (digitReg r) = 0#8) ∧
        t.chipReg j s.cfg.regScanLimit = s.cfg.valScanAll ∧ t.chipReg j s.cfg.regDisplayTest = s.cfg.valTestOff ∧
        t.chipReg j s.cfg.regDecodeMode = s.cfg.valDecodeRaw ∧
        t.chipReg j s.cfg.regIntensity = s.cfg.valIntensityMax ∧ t.chipReg j s.cfg.regShutdown = s.cfg.valNormalOp) ∧
      t.Coherent ∧ (∀ x y : Int, t.pixelOn x y = false)

/-! ### Faults -/

/-- `F_SEQ`: every pixel command outside OPER and INIT outside UNINIT set it and do nothing else; GET_PIXEL alone first
responds 0; an idle block is never in CONFIG (60 R161, R162, 41 R90). -/
def Obligations.SequenceErrors : Prop :=
  (∀ (s : State) (x y : Int) (on : Bool) (sprite : Sprite), s.seq = [] → s.mode ≠ .oper →
    exec (.setPixel x y on) s = .next { s with fSeq := true } ∧
    exec (.getPixel x y) s = .next { s with fSeq := true, rsp := false, rspValid := true } ∧
    exec (.togglePixel x y) s = .next { s with fSeq := true } ∧
    exec .clear s = .next { s with fSeq := true } ∧
    exec (.blit x y sprite) s = .next { s with fSeq := true }) ∧
  (∀ (s : State) (count : Nat), s.seq = [] → s.mode ≠ .uninit →
    exec (.init count) s = .next { s with fSeq := true }) ∧
  (∀ s : State, s.Inv → s.seq = [] → s.mode ≠ .config)

/-- `F_BADN`: INIT in UNINIT with a count outside 1..N_MAX sets it and does nothing else (60 R164, 43 R133 (a)). -/
def Obligations.BadDeviceCount : Prop :=
  ∀ (s : State) (count : Nat), s.seq = [] → s.mode = .uninit → (count < 1 ∨ s.cfg.nMax.toNat < count) →
    exec (.init count) s = .next { s with fBadn := true }

/-- A command word raises at most one fault, chosen in the order opcode, mode, count; no other flag changes (60 R165). -/
def Obligations.FaultPriority : Prop :=
  ∀ (s t : State) (w : CommandWord) (ws : List CommandWord), s.rst = false → s.enc = none → s.seq = [] →
    s.host = w :: ws → step s = .next t →
    ∀ f, t.flag f = (s.flag f || decide (faultOf s w = some f))

/-- A fault flag once set stays set at every step, small or whole, but a reset (60 R166, 10 R32). -/
def Obligations.FaultFlagsSticky : Prop :=
  ∀ (s t : State) (f : FaultFlag), s.rst = false → (step s = .next t ∨ s.tick = .next t) → s.flag f = true →
    t.flag f = true

/-- No instruction's behaviour depends on a fault flag: with a flag set, it does what it does without it (60 R166, 10 R31). -/
def Obligations.FaultFlagsUnread : Prop :=
  ∀ (i : Instr) (s : State) (f : FaultFlag), exec i (s.raise f) = mapNext (fun t => t.raise f) (exec i s)

/-! ### Laws of the canvas -/

/-- The six laws of 41 R99. -/
def Obligations.CanvasLaws : Prop :=
  ∀ s : State, s.Ready → memWf s.fb = true →
    (∀ (x y : Int) (b : Bool), valid s.n x y = true →
      ∃ t u, exec (.setPixel x y b) s = .next t ∧ exec (.getPixel x y) t = .next u ∧ u.rsp = b) ∧
    (∀ x y : Int, valid s.n x y = true →
      ∃ t u, exec (.togglePixel x y) s = .next t ∧ exec (.togglePixel x y) t = .next u ∧
        u.pixelOn x y = s.pixelOn x y) ∧
    (∃ t, exec .clear s = .next t ∧
      ∀ x y : Int, valid s.n x y = true → ∃ u, exec (.getPixel x y) t = .next u ∧ u.rsp = false) ∧
    (∀ (x y x' y' : Int) (b : Bool), valid s.n x y = true → valid s.n x' y' = true → (x', y') ≠ (x, y) →
      ∃ t u, exec (.setPixel x y b) s = .next t ∧ t.pixelOn x' y' = s.pixelOn x' y' ∧
        exec (.togglePixel x y) s = .next u ∧ u.pixelOn x' y' = s.pixelOn x' y') ∧
    (∀ (x y : Int) (b : Bool), valid s.n x y = false →
      ∃ t u, exec (.setPixel x y b) s = .next t ∧ t.fb = s.fb ∧ t.trace = s.trace ∧
        exec (.togglePixel x y) s = .next u ∧ u.fb = s.fb ∧ u.trace = s.trace) ∧
    (∀ x y : Int, ∃ t, exec (.getPixel x y) s = .next t ∧ t.fb = s.fb ∧ t.trace = s.trace)

/-- Toggling twice restores the whole of FB while the trace grows by two row syncs; toggling is setting to the complement
(41 R96). -/
def Obligations.ToggleLaws : Prop :=
  ∀ (s : State) (x y : Int) (p : PixelAddr), s.Ready → memWf s.fb = true → locate s.n x y = some p →
    exec (.togglePixel x y) s = exec (.setPixel x y (!s.pixelOn x y)) s ∧
    ∃ t u, exec (.togglePixel x y) s = .next t ∧ exec (.togglePixel x y) t = .next u ∧ u.fb = s.fb ∧
      u.trace = s.trace ++ t.rowSyncEvents p.row ++ s.rowSyncEvents p.row

/-! ### The blitter -/

/-- The in-range source bits form the rectangle of 44 R143, and the sprite misses the canvas exactly there; then BLIT changes
nothing and sets no flag, in both forms. -/
def Obligations.BlitClipping : Prop :=
  (∀ (n : Byte) (ox oy : Int) (r c : Fin 8), spriteInRange n ox oy r c = true ↔
    clipColLo ox ≤ (c.val : Int) ∧ (c.val : Int) ≤ clipColHi n ox ∧
    clipRowLo oy ≤ (r.val : Int) ∧ (r.val : Int) ≤ clipRowHi oy) ∧
  (∀ (n : Byte) (ox oy : Int),
    ((spriteCells.countP fun rc => spriteInRange n ox oy rc.1 rc.2 : Nat) : Int) = clipRows oy * clipCols n ox) ∧
  (∀ (n : Byte) (ox oy : Int), n ≠ 0#8 →
    ((∀ r c, spriteInRange n ox oy r c = false) ↔ clipCols n ox = 0 ∨ clipRows oy = 0) ∧
    ((∀ r c, spriteInRange n ox oy r c = false) ↔ ox ≤ -8 ∨ 8 * (n.toNat : Int) ≤ ox ∨ oy ≤ -8 ∨ 8 ≤ oy)) ∧
  (∀ (s : State) (ox oy : Int) (sprite : Sprite), s.seq = [] → s.mode = .oper →
    (∀ r c, spriteInRange s.n ox oy r c = false) → exec (.blit ox oy sprite) s = .next s)

/-- Final FB of a blit, both forms: an in-range source bit is its target pixel, zero bits too; every other pixel is unchanged
(44 R140, R144). -/
def Obligations.BlitFinalPixels : Prop :=
  ∀ (s : State) (ox oy : Int) (sprite : Sprite), s.Ready → memWf s.fb = true →
    ∃ t, exec (.blit ox oy sprite) s = .next t ∧
      (∀ r c : Fin 8, spriteInRange s.n ox oy r c = true →
        t.pixelOn ((c.val : Int) + ox) ((r.val : Int) + oy) = spriteBit sprite r c) ∧
      (∀ x y : Int, (∀ r c : Fin 8, ((c.val : Int) + ox, (r.val : Int) + oy) ≠ (x, y)) →
        t.pixelOn x y = s.pixelOn x y)

/-- The two forms of the blit end with the same FB and the same digit registers in every chip below N, coherent if the start was
(44 R146). -/
def Obligations.BlitFormsAgree : Prop :=
  ∀ (s : State) (ox oy : Int) (sprite : Sprite), s.Ready → memWf s.fb = true → s.ChipsInv → s.ChainReaches →
    ∃ t u,
      exec (.blit ox oy sprite) { s with cfg := { s.cfg with blitBatched := false } } = .next t ∧
      exec (.blit ox oy sprite) { s with cfg := { s.cfg with blitBatched := true } } = .next u ∧
      t.fb = u.fb ∧
      (∀ (r : Fin 8) (d : Nat), d < s.n.toNat → t.chipReg d (digitReg r) = u.chipReg d (digitReg r)) ∧
      (s.Coherent → t.Coherent ∧ u.Coherent)

/-- How many calls a blit makes: per in-range bit when unbatched, per affected row when batched, `2·N` sends and one latch
each (44 R144, R145, 70 R192). -/
def Obligations.BlitCallCounts : Prop :=
  ∀ (s : State) (ox oy : Int) (sprite : Sprite), s.Ready →
    ∃ t es k, exec (.blit ox oy sprite) s = .next t ∧ t.trace = s.trace ++ es ∧
      ((k : Nat) : Int) = (if s.cfg.blitBatched then (if clipCols s.n ox = 0 then 0 else clipRows oy)
        else clipRows oy * clipCols s.n ox) ∧
      latchCount es = k ∧ sendCount es = 2 * s.n.toNat * k ∧ initCount es = 0

/-! ### The row serializer and the chain -/

/-- One send shifts the concatenation of the chain's shift registers by eight bits and brings the byte in (42 R115). -/
def Obligations.SendShiftsChain : Prop :=
  ∀ (cfg : Config) (cs : List Chip) (b : Byte),
    (wire cfg cs (.send b)).length = cs.length ∧
    chainValue (wire cfg cs (.send b)) = (chainValue cs * 256 + b.toNat) % 2 ^ (16 * cs.length)

/-- The packet sent `i`-th of N lands in chip `N-1-i`, whatever was in the chain (42 R116). In a shorter chain the packets of
the chips that do not exist fall off the end, and in a longer one the chips past them get what the first chips held before (70
R184). -/
def Obligations.PacketsLandFarthestFirst : Prop :=
  (∀ (cfg : Config) (cs : List Chip) (ps : List (Byte × Byte)) (i : Nat) (p : Byte × Byte),
    ps.length - 1 - i < cs.length → ps[i]? = some p →
    (((ps.flatMap fun q => packetEvents q.1 q.2).foldl (wire cfg) cs)[ps.length - 1 - i]?).map Chip.sr =
      some (mkPacket p.1 p.2)) ∧
  (∀ (cfg : Config) (cs : List Chip) (ps : List (Byte × Byte)) (j : Nat), ps.length + j < cs.length →
    (((ps.flatMap fun q => packetEvents q.1 q.2).foldl (wire cfg) cs)[ps.length + j]?).map Chip.sr =
      (cs[j]?).map Chip.sr)

/-- A latch writes in every chip at once the register its shift register addresses, leaves the shift registers and every
other register alone, and is the only event that changes a register (42 R117). That a chip ignores an address that is none of
its registers is PRESUMED (log 16), R117's own general knowledge. -/
def Obligations.LatchCommitsPackets : Prop :=
  (∀ (cfg : Config) (cs : List Chip) (j : Nat) (c : Chip) (a v : Byte), cs[j]? = some c → memWf c.reg = true →
    c.sr = mkPacket a v →
    ∃ c', (wire cfg cs .latch)[j]? = some c' ∧ c'.sr = c.sr ∧
      ∀ b : Byte, memRead c'.reg b.toNat =
        if isChipRegister cfg a = true ∧ b = a then v else memRead c.reg b.toNat) ∧
  (∀ (cfg : Config) (cs : List Chip) (e : Event), e ≠ .latch →
    (wire cfg cs e).map Chip.reg = cs.map Chip.reg)

/-- RowSync lands each byte at its chip at one latch and changes no other register of the N chips, whatever the state of the
chain before (42 R118, R112). -/
def Obligations.RowSyncLands : Prop :=
  ∀ (s : State) (r : Fin 8), s.tpReady = true → s.tpCredit = none → s.ChipsInv → s.ChainReaches →
    ∃ t, runSteps (rowSyncSteps s.n r) s = .next t ∧ t.fb = s.fb ∧ t.trace = s.trace ++ s.rowSyncEvents r ∧
      (∀ d, d < s.n.toNat → t.chipReg d (digitReg r) = s.fbByte r d) ∧
      (∀ (d : Nat) (a : Byte), d < s.n.toNat → a ≠ digitReg r → t.chipReg d a = s.chipReg d a) ∧
      (∀ (k j : Nat) (a : Byte), k < (s.rowSyncEvents r).length →
        (s.emits ((s.rowSyncEvents r).take k)).chipReg j a = s.chipReg j a)

/-- Every latch of a command comes after exactly `2·N` sends, every packet goes to one of the thirteen addresses, and no
other call stands between (20 R51, R42), whether the command completes or waits. -/
def Obligations.LatchesFrameWholeSets : Prop :=
  ∀ (i : Instr) (s t : State), i.isCommand = true → s.seq = [] → exec i s = .next t →
    ∃ es, t.trace = s.trace ++ es ∧ framed s.cfg t.n.toNat 0 es = true

/-- The call counts of the commands: `2·N` sends and one latch per pixel write, `16·N` and 8 for CLEAR, `26·N`, 13 and one
`init_transfer` for INIT (70 R192). -/
def Obligations.CallCounts : Prop :=
  (∀ (s : State) (x y : Int) (on : Bool), s.Ready → valid s.n x y = true →
    ∃ t u es fs, exec (.setPixel x y on) s = .next t ∧ t.trace = s.trace ++ es ∧
      exec (.togglePixel x y) s = .next u ∧ u.trace = s.trace ++ fs ∧
      sendCount es = 2 * s.n.toNat ∧ latchCount es = 1 ∧ initCount es = 0 ∧
      sendCount fs = 2 * s.n.toNat ∧ latchCount fs = 1 ∧ initCount fs = 0) ∧
  (∀ s : State, s.Ready → ∃ t es, exec .clear s = .next t ∧ t.trace = s.trace ++ es ∧
    sendCount es = 16 * s.n.toNat ∧ latchCount es = 8 ∧ initCount es = 0) ∧
  (∀ (s : State) (count : Nat), s.seq = [] → s.mode = .uninit → s.tpCredit = none → 1 ≤ count →
    count ≤ s.cfg.nMax.toNat →
    ∃ t es, exec (.init count) s = .next t ∧ t.trace = s.trace ++ es ∧
      sendCount es = 26 * count ∧ latchCount es = 13 ∧ initCount es = 1)

/-- The coherence of the chips with FB is established by INIT and kept by every command that completes, whatever step
(42 R119; the chain holds at least N chips, 70 R184). -/
def Obligations.StepKeepsCoherence : Prop :=
  ∀ s t : State, s.cfg.wf = true → s.Inv → s.seq = [] → (s.mode = .oper → s.Coherent) → step s = .next t →
    t.ChainReaches → t.seq = [] → t.mode = .oper → t.Coherent

/-- What is displayed is what `get_pixel` says, where coherence holds, the chain reaches N and the chip is configured (42
R120); a column whose chip is not in the chain shows nothing (70 R184). -/
def Obligations.DisplayShowsCanvas : Prop :=
  (∀ (s : State) (x : Nat) (y : Fin 8), s.Coherent → s.ChainReaches → x < 8 * s.n.toNat →
    s.chipConfigured (x / 8) = true → s.ledLit x y = some (s.pixelOn (x : Int) (y.val : Int))) ∧
  (∀ (s : State) (x : Nat) (y : Fin 8), s.chips.length ≤ x / 8 → s.ledLit x y = none)

/-- After INIT no command writes a configuration register again, whether it completes or waits (43 R135). -/
def Obligations.ConfigRegistersKept : Prop :=
  ∀ (s t : State) (j : Nat) (a : Byte), s.Inv → s.seq = [] → s.mode = .oper → s.rst = false → step s = .next t →
    j < s.n.toNat → isDigitAddress a = false → t.chipReg j a = s.chipReg j a

/-! ### Small steps, waiting and hanging -/

/-- An instruction's meaning is the composition of its small steps, each one primitive, up to a call that does not return
(00 R14, 10 R28); and a step that runs a command word is the small step of its acceptance, which makes `busy` 1 whatever the command (00 R10, 30 R60), and as many more as
the command is unrolled into. That a step of the machine is a whole command is the model's choice (log 1), and so are the host's
list and the end of the response pulse at acceptance (log 10, 12). -/
def Obligations.InstructionIsItsSmallSteps : Prop :=
  (∀ (i : Instr) (s : State), s.seq = [] →
    exec i s = advances (stepList i s).length { s with seq := stepList i s }) ∧
  (∀ (s : State) (w : CommandWord) (ws : List CommandWord), s.rst = false → s.enc = none → s.seq = [] →
    s.host = w :: ws →
    s.tick = .next { s with host := ws, rspValid := false, seq := commandSteps (decodeCommand w) s } ∧
    (s.acceptWord (decodeCommand w)).busy = true ∧
    step s = ticks ((commandSteps (decodeCommand w) s).length + 1) s)

/-- The trace after any number of small steps of a command is a prefix of the trace the whole command produces (00 R14). -/
def Obligations.TraceAfterStepsIsPrefix : Prop :=
  ∀ (k : Nat) (s t u : State), advances k s = .next t → { s with tpCredit := none }.resume = .next u →
    t.trace <+: u.trace

/-- A command that waited and is then let finish ends exactly as if it had never waited (00 R14, 70 R188). -/
def Obligations.WaitingThenResumingAgrees : Prop :=
  ∀ (i : Instr) (s t u : State) (c : Option Nat), i.isCommand = true → s.seq = [] →
    exec i { s with tpCredit := c } = .next t → exec i { s with tpCredit := none } = .next u →
    { t with tpCredit := none }.resume = .next u

/-- A call that never returns leaves the block stuck at it, busy, with no later step begun, no flag set and no word accepted:
no step of the model goes past it (70 R188, 60 R167 (b)). -/
def Obligations.HungCallSticks : Prop :=
  ∀ s : State, s.Inv → s.rst = false → s.request ≠ none → s.tpCredit = some 0 →
    step s = .next s ∧ s.tick = .next s ∧ s.busy = true

/-- A call of SET_PIXEL's row sync that never returns: FB already holds the new bit, the trace stops short of it, the block
stays busy in OPER with no flag, and no chip's register has changed (41 R92 (e), 95 P5). -/
def Obligations.SetPixelHangLeavesChipsOld : Prop :=
  ∀ (s : State) (x y : Int) (on : Bool) (p : PixelAddr) (k : Nat), s.seq = [] → s.mode = .oper → s.tpReady = true →
    s.tpCredit = some k → k ≤ 2 * s.n.toNat → locate s.n x y = some p →
    ∃ t, exec (.setPixel x y on) s = .next t ∧ t.fb = (s.setPix x y on).fb ∧
      t.trace = s.trace ++ ((s.setPix x y on).rowSyncEvents p.row).take k ∧ t.busy = true ∧ t.mode = .oper ∧
      (∀ f, t.flag f = s.flag f) ∧ (∀ (j : Nat) (a : Byte), t.chipReg j a = s.chipReg j a)

/-! ### Frames, whether the command completes or waits -/

/-- SET_PIXEL and TOGGLE_PIXEL change one bit of one byte of FB, at the decoder's address, and in the N chips at most the
digit register of its row; no register or flag but `F_SEQ` outside OPER (41 R91, R95). -/
def Obligations.SetAndToggleFrame : Prop :=
  ∀ (s t : State) (x y : Int) (on : Bool), memWf s.fb = true → s.ChipsInv →
    (exec (.setPixel x y on) s = .next t ∨ exec (.togglePixel x y) s = .next t) →
    s.SameControl t ∧ (s.mode = .oper → t.fSeq = s.fSeq) ∧
    (∀ a : Nat, (∀ p, locate s.n x y = some p → a ≠ fbAddr p.row p.device) → memRead t.fb a = memRead s.fb a) ∧
    (∀ p, locate s.n x y = some p → ∀ k : Fin 8, k ≠ p.bit →
      t.bitAt { p with bit := k } = s.bitAt { p with bit := k }) ∧
    (∀ (j : Nat) (a : Byte), j < s.n.toNat → (∀ p, locate s.n x y = some p → a ≠ digitReg p.row) →
      t.chipReg j a = s.chipReg j a)

/-- GET_PIXEL changes the response and nothing else but `F_SEQ` outside OPER: every byte of memory, every chip and the trace
stay (41 R93). -/
def Obligations.GetPixelFrame : Prop :=
  ∀ (s t : State) (x y : Int), exec (.getPixel x y) s = .next t →
    t = { s with rsp := t.rsp, rspValid := t.rspValid, fSeq := t.fSeq } ∧ (s.mode = .oper → t.fSeq = s.fSeq)

/-- CLEAR writes only bytes of FB, and in the N chips only digit registers; no register or flag but `F_SEQ` outside OPER
(41 R97). -/
def Obligations.ClearFrame : Prop :=
  ∀ s t : State, memWf s.fb = true → s.ChipsInv → exec .clear s = .next t →
    s.SameControl t ∧ (s.mode = .oper → t.fSeq = s.fSeq) ∧
    (∀ a : Nat, ¬ s.IsFbAddr a → memRead t.fb a = memRead s.fb a) ∧
    (∀ (j : Nat) (a : Byte), j < s.n.toNat → isDigitAddress a = false → t.chipReg j a = s.chipReg j a)

/-- BLIT writes only the bytes its in-range targets lie in, no bit that is no target, and in the N chips only the digit
registers of the rows it touches; no register or flag but `F_SEQ` outside OPER (44 R141, R145). -/
def Obligations.BlitFrame : Prop :=
  ∀ (s t : State) (ox oy : Int) (sprite : Sprite), memWf s.fb = true → s.ChipsInv →
    exec (.blit ox oy sprite) s = .next t →
    s.SameControl t ∧ (s.mode = .oper → t.fSeq = s.fSeq) ∧
    (∀ a : Nat, (∀ (r c : Fin 8) (p : PixelAddr), locate s.n (targetX ox c) (targetY oy r) = some p →
      a ≠ fbAddr p.row p.device) → memRead t.fb a = memRead s.fb a) ∧
    (∀ q : PixelAddr, q.device < s.n.toNat →
      (∀ r c : Fin 8, locate s.n (targetX ox c) (targetY oy r) ≠ some q) → t.bitAt q = s.bitAt q) ∧
    (∀ (j : Nat) (a : Byte), j < s.n.toNat →
      (∀ (r c : Fin 8) (p : PixelAddr), locate s.n (targetX ox c) (targetY oy r) = some p → a ≠ digitReg p.row) →
      t.chipReg j a = s.chipReg j a)

/-- INIT leaves the parameters, the response, `F_ILLOP`, the host's words, the inputs, the number of chips and every address
that is no byte of FB; in UNINIT it leaves `F_SEQ`, and outside UNINIT everything but `F_SEQ` (43 R131, R133). -/
def Obligations.InitFrame : Prop :=
  ∀ (s t : State) (count : Nat), memWf s.fb = true → exec (.init count) s = .next t →
    t.cfg = s.cfg ∧ t.rsp = s.rsp ∧ t.rspValid = s.rspValid ∧ t.fIllop = s.fIllop ∧ t.host = s.host ∧ t.rst = s.rst ∧
    t.enc = s.enc ∧ t.free = s.free ∧ t.chips.length = s.chips.length ∧
    (s.mode = .uninit → t.fSeq = s.fSeq) ∧ (s.mode ≠ .uninit → t = { s with fSeq := t.fSeq }) ∧
    (legalCount s.cfg count = true → t.fBadn = s.fBadn) ∧
    (∀ a : Nat, ¬ t.IsFbAddr a → memRead t.fb a = memRead s.fb a)

/-- A packet changes the wire alone: the trace grows, the shift registers move, no register of a chip changes and nothing of
the block's but the sequencer, if it waits (43 R125, 42 R117). -/
def Obligations.PacketFrame : Prop :=
  ∀ (i : Instr) (s t : State), i.isCommand = false → exec i s = .next t →
    t = { s with seq := t.seq, trace := t.trace, chips := t.chips, tpCredit := t.tpCredit } ∧
    s.trace <+: t.trace ∧ t.chips.map Chip.reg = s.chips.map Chip.reg

/-! ### Invariants of the machine -/

/-- From every state that meets the invariant, a step gives a next state that meets it, and so does a small step: the block
never stops, its memories stay canonical and FB within its 8·N_MAX bytes, N and mode stay legal, CONFIG has INIT in progress
(10 R21, R22, R23, 40 R84). -/
def Obligations.StepKeepsInvariant : Prop :=
  ∀ s : State, s.Inv → (∃ t, step s = .next t ∧ t.Inv) ∧ (∃ t, s.tick = .next t ∧ t.Inv)

/-- The state after reset meets the invariant, whatever words the host has, whatever calls return and however many chips
there are (10 section 8). -/
def Obligations.ResetMeetsInvariant : Prop :=
  ∀ (hs : List CommandWord) (c : Option Nat) (k : Nat),
    { State.reset with host := hs, tpCredit := c, chips := List.replicate k Chip.powerOn }.Inv

/-- `rst` puts the block in the reset state whatever it was doing, and does not reset the chips: they keep what they had, or
see the one call that was outstanding; FB writes already made stay made (70 R180, R181, R182). That `rst` is sampled when
a step, small or whole, begins is the model's choice (log 11), and so is that FB keeps its cells at every `rst`, where R180
and 10 R26 leave it unspecified (log 3). -/
def Obligations.ResetStep : Prop :=
  ∀ s : State, s.rst = true →
    ∃ t, step s = .next t ∧ s.tick = .next t ∧ t.mode = .uninit ∧ t.n = 0#8 ∧ t.seq = [] ∧
      t.busy = false ∧ t.faultBits = 0#3 ∧ t.rspValid = false ∧ t.trace = [] ∧ t.tpReady = false ∧ t.cfg = s.cfg ∧ t.host = s.host ∧
      t.fb = s.fb ∧ (t.chips = s.chips ∨ ∃ e, s.request = some e ∧ t.chips = wire s.cfg s.chips e)

/-- `mode` moves UNINIT to CONFIG to OPER and never back: a small step leaves it, or is the `mode <- CONFIG` of an INIT in
UNINIT, or the `mode <- OPER` that ends INIT; such a `mode <- CONFIG` comes from an accepted legal INIT alone (10 R22, 60
R171). A whole step runs a command's small steps together (log 1), so it may lead from UNINIT to OPER through CONFIG, or stop in
CONFIG with INIT in progress. -/
def Obligations.ModeIsLinear : Prop :=
  (∀ s t : State, s.Inv → s.rst = false → s.tick = .next t →
    (t.mode = s.mode ∨
      s.mode = .uninit ∧ t.mode = .config ∧ s.seq = .setMode .config :: t.seq ∨
      s.mode = .config ∧ t.mode = .oper ∧ s.seq = [.setMode .oper] ∧ t.seq = []) ∧
    (.setMode .config ∈ t.seq → .setMode .config ∈ s.seq ∨ ∃ count, s.AcceptsInit count)) ∧
  (∀ s t : State, s.Inv → s.rst = false → step s = .next t →
    (s.mode = .oper → t.mode = .oper) ∧
    (s.mode = .config → t.mode = .oper ∧ t.seq = [] ∨ t.mode = .config ∧ t.seq ≠ []) ∧
    (s.mode = .uninit → t.mode = .uninit ∨
      (.setMode .config ∈ s.seq ∨ ∃ count, s.AcceptsInit count) ∧
      (t.mode = .oper ∧ t.seq = [] ∨ t.mode = .config ∧ t.seq ≠ [])))

/-- N is written only by the one legal INIT, with its count, a value in 1..N_MAX, and never again (10 R21, 43 R131): a step
that changes N accepts that INIT or has its `N <- count` to do, and a small step puts an `N <- k` before the sequencer only by
accepting a legal INIT of k. -/
def Obligations.DeviceCountWrittenOnce : Prop :=
  (∀ s t : State, s.Inv → s.rst = false → step s = .next t → t.n ≠ s.n →
    s.mode = .uninit ∧ s.n = 0#8 ∧ 1 ≤ t.n.toNat ∧ t.n.toNat ≤ s.cfg.nMax.toNat ∧
    (s.AcceptsInit t.n.toNat ∨ ∃ rest, s.seq = .writeN t.n :: rest)) ∧
  (∀ s t : State, s.Inv → s.rst = false → s.tick = .next t →
    (t.n ≠ s.n → s.mode = .uninit ∧ s.n = 0#8 ∧ s.seq = .writeN t.n :: t.seq) ∧
    (∀ k : Byte, .writeN k ∈ t.seq → .writeN k ∈ s.seq ∨ s.AcceptsInit k.toNat))

/-- `init_transfer` is called at most once between resets, before any other call (43 R133 (d), 10 R37). -/
def Obligations.InitTransferOnce : Prop :=
  ∀ s t : State, s.Inv → s.rst = false → step s = .next t →
    ∃ es, t.trace = s.trace ++ es ∧
      (s.tpReady = true → t.tpReady = true ∧ initCount es = 0) ∧
      (s.tpReady = false → (t.tpReady = false ∧ es = []) ∨ (t.tpReady = true ∧ ∃ fs, es = .init :: fs ∧ initCount fs = 0))

/-- `rsp` is written by GET_PIXEL alone (10 R33, 30 R70): a step runs a GET_PIXEL word, or the response of one accepted by an
earlier small step, and then `rsp_valid` is 1, or it leaves `rsp`, and `rsp_valid` unless the block was idle (log 12); a small
step puts a response before the sequencer only by accepting a GET_PIXEL. -/
def Obligations.ResponseOnlyByGetPixel : Prop :=
  (∀ s t : State, s.Inv → s.rst = false → step s = .next t →
    (∃ x y, s.AcceptsGetPixel x y ∧ t.rspValid = true ∧ t.rsp = (decide (s.mode = .oper) && s.pixelOn x y)) ∨
    (∃ b rest, s.seq = .respond b :: rest ∧ t.rspValid = true ∧ t.rsp = b) ∨
    (∃ r d k rest, s.seq = .respondPixel r d k :: rest ∧ t.rspValid = true ∧
      t.rsp = (s.fbByte r d).getLsbD k.val) ∨
    (t.rsp = s.rsp ∧ t.rspValid = (s.busy && s.rspValid))) ∧
  (∀ (s t : State) (op : SeqStep), s.Inv → s.rst = false → s.tick = .next t → op ∈ t.seq → op.responds = true →
    op ∈ s.seq ∨ ∃ x y, s.AcceptsGetPixel x y)

/-- The status outputs (10 R22, R30, R32, 92 D25, D26). -/
def Obligations.StatusOutputs : Prop :=
  (∀ s : State, (s.status.busy = true ↔ s.seq ≠ []) ∧ s.cmdReady = !s.status.busy ∧
    s.status.fault.getLsbD 0 = s.fSeq ∧ s.status.fault.getLsbD 1 = s.fIllop ∧ s.status.fault.getLsbD 2 = s.fBadn ∧
    s.status.rsp = s.rsp ∧ s.status.rspValid = s.rspValid ∧
    (s.status.mode = 0#2 ↔ s.mode = .uninit) ∧ (s.status.mode = 1#2 ↔ s.mode = .config) ∧
    (s.status.mode = 2#2 ↔ s.mode = .oper))
end

