-- ==== Sys2Proof/Laws/Memory.lean ====
section
/-!
SUPPORT. The laws of the byte memory: a read after a write, and the canonical form that every write keeps.
-/

namespace Sys2Proof.Machine

theorem memWf_cons {c : Host.Cell} {m : List Host.Cell} :
    memWf (c :: m) = true ↔ c.2 ≠ 0#8 ∧ (∀ d ∈ m, c.1 < d.1) ∧ memWf m = true := by
  simp [memWf, and_assoc]

/-- An address below every listed one reads 0x00. -/
theorem memRead_of_lt {m : List Host.Cell} {a : Nat} (h : ∀ d ∈ m, a < d.1) : memRead m a = 0#8 := by
  induction m with
  | nil => rfl
  | cons c m ih =>
    have hc : a < c.1 := h c (by simp)
    rw [memRead, if_neg (by omega)]
    exact ih fun d hd => h d (by simp [hd])

/-- An address that is not listed reads 0x00. -/
theorem memRead_of_not_mem {m : List Host.Cell} {a : Nat} (h : ∀ d ∈ m, d.1 ≠ a) : memRead m a = 0#8 := by
  induction m with
  | nil => rfl
  | cons c m ih =>
    rw [memRead, if_neg (h c (by simp))]
    exact ih fun d hd => h d (by simp [hd])

/-- A cell of a written memory is the written one or an old one. -/
theorem mem_memWrite {m : List Host.Cell} {a : Nat} {v : Byte} {c : Host.Cell} (h : c ∈ memWrite m a v) :
    (c = (a, v) ∧ v ≠ 0#8) ∨ c ∈ m := by
  induction m with
  | nil =>
    by_cases hv : v = 0#8 <;> simp [memWrite, hv] at h ⊢
    exact h
  | cons d m ih =>
    by_cases h1 : a < d.1 <;> by_cases h2 : a = d.1 <;> by_cases hv : v = 0#8 <;>
      simp only [memWrite, h1, h2, hv, if_true, if_false, List.mem_cons] at h ⊢ <;> grind

theorem memWf_memWrite {m : List Host.Cell} (a : Nat) (v : Byte) (h : memWf m = true) :
    memWf (memWrite m a v) = true := by
  induction m with
  | nil => by_cases hv : v = 0#8 <;> simp [memWrite, memWf, hv]
  | cons d m ih =>
    obtain ⟨h0, h1, h2⟩ := memWf_cons.1 h
    rw [memWrite]
    by_cases hlt : a < d.1
    · by_cases hv : v = 0#8
      · simpa [hlt, hv] using h
      · rw [if_pos hlt, if_neg hv, memWf_cons]
        refine ⟨hv, fun e he => ?_, h⟩
        rcases List.mem_cons.1 he with rfl | he
        · exact hlt
        · exact lt_trans hlt (h1 e he)
    · rw [if_neg hlt]
      by_cases heq : a = d.1
      · by_cases hv : v = 0#8
        · simpa [heq, hv] using h2
        · rw [if_pos heq, if_neg hv, memWf_cons]
          exact ⟨hv, fun e he => by simpa [heq] using h1 e he, h2⟩
      · rw [if_neg heq, memWf_cons]
        refine ⟨h0, fun e he => ?_, ih h2⟩
        rcases mem_memWrite he with ⟨rfl, _⟩ | he
        · show d.1 < a
          omega
        · exact h1 e he

/-- A read after a write: the byte written there, every other place as it was. -/
theorem memRead_memWrite {m : List Host.Cell} (a b : Nat) (v : Byte) (h : memWf m = true) :
    memRead (memWrite m a v) b = if b = a then v else memRead m b := by
  induction m with
  | nil =>
    by_cases hv : v = 0#8 <;> by_cases hb : b = a <;> simp [memWrite, memRead, hv, hb]
    exact fun h => absurd h.symm hb
  | cons d m ih =>
    obtain ⟨h0, h1, h2⟩ := memWf_cons.1 h
    rw [memWrite]
    by_cases hlt : a < d.1
    · by_cases hv : v = 0#8
      · rw [if_pos hlt, if_pos hv]
        by_cases hb : b = a
        · rw [if_pos hb, hv, hb]
          refine memRead_of_lt fun e he => ?_
          rcases List.mem_cons.1 he with rfl | he
          · exact hlt
          · exact lt_trans hlt (h1 e he)
        · rw [if_neg hb]
      · rw [if_pos hlt, if_neg hv, memRead]
        by_cases hb : b = a
        · simp [hb]
        · rw [if_neg (fun h => hb h.symm), if_neg hb]
    · rw [if_neg hlt]
      by_cases heq : a = d.1
      · subst heq
        by_cases hb : b = d.1
        · by_cases hv : v = 0#8
          · subst hb
            simp only [if_true, hv]
            exact memRead_of_lt h1
          · simp [hv, hb, memRead]
        · by_cases hv : v = 0#8
          · simp [hv, hb, memRead, Ne.symm hb]
          · simp [hv, hb, memRead, Ne.symm hb]
      · rw [if_neg heq, memRead, memRead, ih h2]
        by_cases hd : d.1 = b
        · rw [if_pos hd, if_neg (by omega), if_pos hd]
        · rw [if_neg hd]
          by_cases hb : b = a
          · rw [if_pos hb, if_pos hb]
          · rw [if_neg hb, if_neg hb, if_neg hd]

/-- Two bytes of FB share an address only if they are the same byte. -/
theorem fbAddr_inj {r q : Fin 8} {d e : Nat} (hd : d < 256) (he : e < 256) :
    fbAddr r d = fbAddr q e ↔ r = q ∧ d = e := by
  have := r.isLt
  have := q.isLt
  constructor
  · intro h
    simp only [fbAddr] at h
    exact ⟨Fin.ext (by omega), by omega⟩
  · rintro ⟨rfl, rfl⟩
    rfl

/-- FB after a store: the byte stored, every other byte as it was. -/
theorem State.fbByte_fbStore (s : State) (r q : Fin 8) (d e : Nat) (v : Byte) (hw : memWf s.fb = true)
    (hd : d < 256) (he : e < 256) :
    (s.fbStore r d v).fbByte q e = if q = r ∧ e = d then v else s.fbByte q e := by
  show memRead (memWrite s.fb (fbAddr r d) v) (fbAddr q e) = _
  rw [memRead_memWrite _ _ _ hw]
  simp only [fbAddr_inj he hd]
  rfl

/-- Two canonical memories that read the same everywhere are the same list. -/
theorem memWf_ext {m k : List Host.Cell} (hm : memWf m = true) (hk : memWf k = true)
    (h : ∀ a, memRead m a = memRead k a) : m = k := by
  induction m generalizing k with
  | nil =>
    cases k with
    | nil => rfl
    | cons d k =>
      have := h d.1
      simp [memRead] at this
      exact absurd this.symm (memWf_cons.1 hk).1
  | cons c m ih =>
    obtain ⟨c0, c1, c2⟩ := memWf_cons.1 hm
    cases k with
    | nil =>
      have := h c.1
      simp [memRead] at this
      exact absurd this c0
    | cons d k =>
      obtain ⟨d0, d1, d2⟩ := memWf_cons.1 hk
      have hcd : c.1 = d.1 := by
        rcases lt_trichotomy c.1 d.1 with hlt | heq | hgt
        · have h1 := h c.1
          rw [memRead, if_pos rfl, memRead_of_lt (m := d :: k)] at h1
          · exact absurd h1 c0
          · intro e he
            rcases List.mem_cons.1 he with rfl | he
            · exact hlt
            · exact lt_trans hlt (d1 e he)
        · exact heq
        · have h1 := h d.1
          rw [memRead_of_lt (m := c :: m), memRead, if_pos rfl] at h1
          · exact absurd h1.symm d0
          · intro e he
            rcases List.mem_cons.1 he with rfl | he
            · exact hgt
            · exact lt_trans hgt (c1 e he)
      have hv : c.2 = d.2 := by
        have h1 := h c.1
        rw [memRead, if_pos rfl, memRead, if_pos hcd.symm] at h1
        exact h1
      have htail : m = k := ih c2 d2 fun a => by
        by_cases ha : a = c.1
        · rw [ha, memRead_of_lt c1, hcd, memRead_of_lt d1]
        · have h1 := h a
          rwa [memRead, if_neg (fun e => ha e.symm), memRead, if_neg (fun e => ha (by omega))] at h1
      rw [htail, Prod.ext hcd hv]

end Sys2Proof.Machine
end

