-- ==== Sys2Proof/Laws/State.lean ====
section
/-!
SUPPORT. One lemma per field per update of State, so that no later proof unfolds a record update.
-/

namespace Sys2Proof.Machine

@[simp] theorem State.raise_cfg (s : State) (f : FaultFlag) : (s.raise f).cfg = s.cfg := by cases f <;> rfl
@[simp] theorem State.raise_n (s : State) (f : FaultFlag) : (s.raise f).n = s.n := by cases f <;> rfl
@[simp] theorem State.raise_mode (s : State) (f : FaultFlag) : (s.raise f).mode = s.mode := by cases f <;> rfl
@[simp] theorem State.raise_fSeq (s : State) (f : FaultFlag) : (s.raise f).fSeq = (s.fSeq || decide (f = .seq)) := by cases f <;> simp [State.raise]
@[simp] theorem State.raise_fIllop (s : State) (f : FaultFlag) : (s.raise f).fIllop = (s.fIllop || decide (f = .illop)) := by cases f <;> simp [State.raise]
@[simp] theorem State.raise_fBadn (s : State) (f : FaultFlag) : (s.raise f).fBadn = (s.fBadn || decide (f = .badn)) := by cases f <;> simp [State.raise]
@[simp] theorem State.raise_fb (s : State) (f : FaultFlag) : (s.raise f).fb = s.fb := by cases f <;> rfl
@[simp] theorem State.raise_seq (s : State) (f : FaultFlag) : (s.raise f).seq = s.seq := by cases f <;> rfl
@[simp] theorem State.raise_rsp (s : State) (f : FaultFlag) : (s.raise f).rsp = s.rsp := by cases f <;> rfl
@[simp] theorem State.raise_rspValid (s : State) (f : FaultFlag) : (s.raise f).rspValid = s.rspValid := by cases f <;> rfl
@[simp] theorem State.raise_trace (s : State) (f : FaultFlag) : (s.raise f).trace = s.trace := by cases f <;> rfl
@[simp] theorem State.raise_chips (s : State) (f : FaultFlag) : (s.raise f).chips = s.chips := by cases f <;> rfl
@[simp] theorem State.raise_tpReady (s : State) (f : FaultFlag) : (s.raise f).tpReady = s.tpReady := by cases f <;> rfl
@[simp] theorem State.raise_tpCredit (s : State) (f : FaultFlag) : (s.raise f).tpCredit = s.tpCredit := by cases f <;> rfl
@[simp] theorem State.raise_host (s : State) (f : FaultFlag) : (s.raise f).host = s.host := by cases f <;> rfl
@[simp] theorem State.raise_rst (s : State) (f : FaultFlag) : (s.raise f).rst = s.rst := by cases f <;> rfl
@[simp] theorem State.raise_enc (s : State) (f : FaultFlag) : (s.raise f).enc = s.enc := by cases f <;> rfl
@[simp] theorem State.raise_free (s : State) (f : FaultFlag) : (s.raise f).free = s.free := by cases f <;> rfl

@[simp] theorem State.respond_cfg (s : State) (b : Bool) : (s.respond b).cfg = s.cfg := rfl
@[simp] theorem State.respond_n (s : State) (b : Bool) : (s.respond b).n = s.n := rfl
@[simp] theorem State.respond_mode (s : State) (b : Bool) : (s.respond b).mode = s.mode := rfl
@[simp] theorem State.respond_fSeq (s : State) (b : Bool) : (s.respond b).fSeq = s.fSeq := rfl
@[simp] theorem State.respond_fIllop (s : State) (b : Bool) : (s.respond b).fIllop = s.fIllop := rfl
@[simp] theorem State.respond_fBadn (s : State) (b : Bool) : (s.respond b).fBadn = s.fBadn := rfl
@[simp] theorem State.respond_fb (s : State) (b : Bool) : (s.respond b).fb = s.fb := rfl
@[simp] theorem State.respond_seq (s : State) (b : Bool) : (s.respond b).seq = s.seq := rfl
@[simp] theorem State.respond_rsp (s : State) (b : Bool) : (s.respond b).rsp = b := rfl
@[simp] theorem State.respond_rspValid (s : State) (b : Bool) : (s.respond b).rspValid = true := rfl
@[simp] theorem State.respond_trace (s : State) (b : Bool) : (s.respond b).trace = s.trace := rfl
@[simp] theorem State.respond_chips (s : State) (b : Bool) : (s.respond b).chips = s.chips := rfl
@[simp] theorem State.respond_tpReady (s : State) (b : Bool) : (s.respond b).tpReady = s.tpReady := rfl
@[simp] theorem State.respond_tpCredit (s : State) (b : Bool) : (s.respond b).tpCredit = s.tpCredit := rfl
@[simp] theorem State.respond_host (s : State) (b : Bool) : (s.respond b).host = s.host := rfl
@[simp] theorem State.respond_rst (s : State) (b : Bool) : (s.respond b).rst = s.rst := rfl
@[simp] theorem State.respond_enc (s : State) (b : Bool) : (s.respond b).enc = s.enc := rfl
@[simp] theorem State.respond_free (s : State) (b : Bool) : (s.respond b).free = s.free := rfl

@[simp] theorem State.fbStore_cfg (s : State) (r : Fin 8) (d : Nat) (v : Byte) : (s.fbStore r d v).cfg = s.cfg := rfl
@[simp] theorem State.fbStore_n (s : State) (r : Fin 8) (d : Nat) (v : Byte) : (s.fbStore r d v).n = s.n := rfl
@[simp] theorem State.fbStore_mode (s : State) (r : Fin 8) (d : Nat) (v : Byte) : (s.fbStore r d v).mode = s.mode := rfl
@[simp] theorem State.fbStore_fSeq (s : State) (r : Fin 8) (d : Nat) (v : Byte) : (s.fbStore r d v).fSeq = s.fSeq := rfl
@[simp] theorem State.fbStore_fIllop (s : State) (r : Fin 8) (d : Nat) (v : Byte) : (s.fbStore r d v).fIllop = s.fIllop := rfl
@[simp] theorem State.fbStore_fBadn (s : State) (r : Fin 8) (d : Nat) (v : Byte) : (s.fbStore r d v).fBadn = s.fBadn := rfl
@[simp] theorem State.fbStore_fb (s : State) (r : Fin 8) (d : Nat) (v : Byte) : (s.fbStore r d v).fb = memWrite s.fb (fbAddr r d) v := rfl
@[simp] theorem State.fbStore_seq (s : State) (r : Fin 8) (d : Nat) (v : Byte) : (s.fbStore r d v).seq = s.seq := rfl
@[simp] theorem State.fbStore_rsp (s : State) (r : Fin 8) (d : Nat) (v : Byte) : (s.fbStore r d v).rsp = s.rsp := rfl
@[simp] theorem State.fbStore_rspValid (s : State) (r : Fin 8) (d : Nat) (v : Byte) : (s.fbStore r d v).rspValid = s.rspValid := rfl
@[simp] theorem State.fbStore_trace (s : State) (r : Fin 8) (d : Nat) (v : Byte) : (s.fbStore r d v).trace = s.trace := rfl
@[simp] theorem State.fbStore_chips (s : State) (r : Fin 8) (d : Nat) (v : Byte) : (s.fbStore r d v).chips = s.chips := rfl
@[simp] theorem State.fbStore_tpReady (s : State) (r : Fin 8) (d : Nat) (v : Byte) : (s.fbStore r d v).tpReady = s.tpReady := rfl
@[simp] theorem State.fbStore_tpCredit (s : State) (r : Fin 8) (d : Nat) (v : Byte) : (s.fbStore r d v).tpCredit = s.tpCredit := rfl
@[simp] theorem State.fbStore_host (s : State) (r : Fin 8) (d : Nat) (v : Byte) : (s.fbStore r d v).host = s.host := rfl
@[simp] theorem State.fbStore_rst (s : State) (r : Fin 8) (d : Nat) (v : Byte) : (s.fbStore r d v).rst = s.rst := rfl
@[simp] theorem State.fbStore_enc (s : State) (r : Fin 8) (d : Nat) (v : Byte) : (s.fbStore r d v).enc = s.enc := rfl
@[simp] theorem State.fbStore_free (s : State) (r : Fin 8) (d : Nat) (v : Byte) : (s.fbStore r d v).free = s.free := rfl

@[simp] theorem State.emit_cfg (s : State) (e : Event) : (s.emit e).cfg = s.cfg := rfl
@[simp] theorem State.emit_n (s : State) (e : Event) : (s.emit e).n = s.n := rfl
@[simp] theorem State.emit_mode (s : State) (e : Event) : (s.emit e).mode = s.mode := rfl
@[simp] theorem State.emit_fSeq (s : State) (e : Event) : (s.emit e).fSeq = s.fSeq := rfl
@[simp] theorem State.emit_fIllop (s : State) (e : Event) : (s.emit e).fIllop = s.fIllop := rfl
@[simp] theorem State.emit_fBadn (s : State) (e : Event) : (s.emit e).fBadn = s.fBadn := rfl
@[simp] theorem State.emit_fb (s : State) (e : Event) : (s.emit e).fb = s.fb := rfl
@[simp] theorem State.emit_seq (s : State) (e : Event) : (s.emit e).seq = s.seq := rfl
@[simp] theorem State.emit_rsp (s : State) (e : Event) : (s.emit e).rsp = s.rsp := rfl
@[simp] theorem State.emit_rspValid (s : State) (e : Event) : (s.emit e).rspValid = s.rspValid := rfl
@[simp] theorem State.emit_trace (s : State) (e : Event) : (s.emit e).trace = s.trace ++ [e] := rfl
@[simp] theorem State.emit_chips (s : State) (e : Event) : (s.emit e).chips = wire s.cfg s.chips e := rfl
@[simp] theorem State.emit_tpReady (s : State) (e : Event) : (s.emit e).tpReady = s.tpReady := rfl
@[simp] theorem State.emit_tpCredit (s : State) (e : Event) : (s.emit e).tpCredit = s.tpCredit := rfl
@[simp] theorem State.emit_host (s : State) (e : Event) : (s.emit e).host = s.host := rfl
@[simp] theorem State.emit_rst (s : State) (e : Event) : (s.emit e).rst = s.rst := rfl
@[simp] theorem State.emit_enc (s : State) (e : Event) : (s.emit e).enc = s.enc := rfl
@[simp] theorem State.emit_free (s : State) (e : Event) : (s.emit e).free = s.free := rfl

@[simp] theorem State.emits_cfg (s : State) (es : List Event) : (s.emits es).cfg = s.cfg := rfl
@[simp] theorem State.emits_n (s : State) (es : List Event) : (s.emits es).n = s.n := rfl
@[simp] theorem State.emits_mode (s : State) (es : List Event) : (s.emits es).mode = s.mode := rfl
@[simp] theorem State.emits_fSeq (s : State) (es : List Event) : (s.emits es).fSeq = s.fSeq := rfl
@[simp] theorem State.emits_fIllop (s : State) (es : List Event) : (s.emits es).fIllop = s.fIllop := rfl
@[simp] theorem State.emits_fBadn (s : State) (es : List Event) : (s.emits es).fBadn = s.fBadn := rfl
@[simp] theorem State.emits_fb (s : State) (es : List Event) : (s.emits es).fb = s.fb := rfl
@[simp] theorem State.emits_seq (s : State) (es : List Event) : (s.emits es).seq = s.seq := rfl
@[simp] theorem State.emits_rsp (s : State) (es : List Event) : (s.emits es).rsp = s.rsp := rfl
@[simp] theorem State.emits_rspValid (s : State) (es : List Event) : (s.emits es).rspValid = s.rspValid := rfl
@[simp] theorem State.emits_trace (s : State) (es : List Event) : (s.emits es).trace = s.trace ++ es := rfl
@[simp] theorem State.emits_chips (s : State) (es : List Event) : (s.emits es).chips = es.foldl (wire s.cfg) s.chips := rfl
@[simp] theorem State.emits_tpReady (s : State) (es : List Event) : (s.emits es).tpReady = s.tpReady := rfl
@[simp] theorem State.emits_tpCredit (s : State) (es : List Event) : (s.emits es).tpCredit = s.tpCredit := rfl
@[simp] theorem State.emits_host (s : State) (es : List Event) : (s.emits es).host = s.host := rfl
@[simp] theorem State.emits_rst (s : State) (es : List Event) : (s.emits es).rst = s.rst := rfl
@[simp] theorem State.emits_enc (s : State) (es : List Event) : (s.emits es).enc = s.enc := rfl
@[simp] theorem State.emits_free (s : State) (es : List Event) : (s.emits es).free = s.free := rfl

@[simp] theorem State.beginStep_cfg (s : State) : (s.beginStep).cfg = s.cfg := rfl
@[simp] theorem State.beginStep_n (s : State) : (s.beginStep).n = s.n := rfl
@[simp] theorem State.beginStep_mode (s : State) : (s.beginStep).mode = s.mode := rfl
@[simp] theorem State.beginStep_fSeq (s : State) : (s.beginStep).fSeq = s.fSeq := rfl
@[simp] theorem State.beginStep_fIllop (s : State) : (s.beginStep).fIllop = s.fIllop := rfl
@[simp] theorem State.beginStep_fBadn (s : State) : (s.beginStep).fBadn = s.fBadn := rfl
@[simp] theorem State.beginStep_fb (s : State) : (s.beginStep).fb = s.fb := rfl
@[simp] theorem State.beginStep_seq (s : State) : (s.beginStep).seq = s.seq := rfl
@[simp] theorem State.beginStep_rsp (s : State) : (s.beginStep).rsp = s.rsp := rfl
@[simp] theorem State.beginStep_rspValid (s : State) : (s.beginStep).rspValid = false := rfl
@[simp] theorem State.beginStep_trace (s : State) : (s.beginStep).trace = s.trace := rfl
@[simp] theorem State.beginStep_chips (s : State) : (s.beginStep).chips = s.chips := rfl
@[simp] theorem State.beginStep_tpReady (s : State) : (s.beginStep).tpReady = s.tpReady := rfl
@[simp] theorem State.beginStep_tpCredit (s : State) : (s.beginStep).tpCredit = s.tpCredit := rfl
@[simp] theorem State.beginStep_host (s : State) : (s.beginStep).host = s.host := rfl
@[simp] theorem State.beginStep_rst (s : State) : (s.beginStep).rst = s.rst := rfl
@[simp] theorem State.beginStep_enc (s : State) : (s.beginStep).enc = s.enc := rfl
@[simp] theorem State.beginStep_free (s : State) : (s.beginStep).free = s.free := rfl

@[simp] theorem State.takePacket_cfg (s : State) : (s.takePacket).cfg = s.cfg := rfl
@[simp] theorem State.takePacket_n (s : State) : (s.takePacket).n = s.n := rfl
@[simp] theorem State.takePacket_mode (s : State) : (s.takePacket).mode = s.mode := rfl
@[simp] theorem State.takePacket_fSeq (s : State) : (s.takePacket).fSeq = s.fSeq := rfl
@[simp] theorem State.takePacket_fIllop (s : State) : (s.takePacket).fIllop = s.fIllop := rfl
@[simp] theorem State.takePacket_fBadn (s : State) : (s.takePacket).fBadn = s.fBadn := rfl
@[simp] theorem State.takePacket_fb (s : State) : (s.takePacket).fb = s.fb := rfl
@[simp] theorem State.takePacket_seq (s : State) : (s.takePacket).seq = s.seq := rfl
@[simp] theorem State.takePacket_rsp (s : State) : (s.takePacket).rsp = s.rsp := rfl
@[simp] theorem State.takePacket_rspValid (s : State) : (s.takePacket).rspValid = false := rfl
@[simp] theorem State.takePacket_trace (s : State) : (s.takePacket).trace = s.trace := rfl
@[simp] theorem State.takePacket_chips (s : State) : (s.takePacket).chips = s.chips := rfl
@[simp] theorem State.takePacket_tpReady (s : State) : (s.takePacket).tpReady = s.tpReady := rfl
@[simp] theorem State.takePacket_tpCredit (s : State) : (s.takePacket).tpCredit = s.tpCredit := rfl
@[simp] theorem State.takePacket_host (s : State) : (s.takePacket).host = s.host := rfl
@[simp] theorem State.takePacket_rst (s : State) : (s.takePacket).rst = s.rst := rfl
@[simp] theorem State.takePacket_enc (s : State) : (s.takePacket).enc = none := rfl
@[simp] theorem State.takePacket_free (s : State) : (s.takePacket).free = s.free := rfl

@[simp] theorem State.takeCommand_cfg (s : State) : (s.takeCommand).cfg = s.cfg := rfl
@[simp] theorem State.takeCommand_n (s : State) : (s.takeCommand).n = s.n := rfl
@[simp] theorem State.takeCommand_mode (s : State) : (s.takeCommand).mode = s.mode := rfl
@[simp] theorem State.takeCommand_fSeq (s : State) : (s.takeCommand).fSeq = s.fSeq := rfl
@[simp] theorem State.takeCommand_fIllop (s : State) : (s.takeCommand).fIllop = s.fIllop := rfl
@[simp] theorem State.takeCommand_fBadn (s : State) : (s.takeCommand).fBadn = s.fBadn := rfl
@[simp] theorem State.takeCommand_fb (s : State) : (s.takeCommand).fb = s.fb := rfl
@[simp] theorem State.takeCommand_seq (s : State) : (s.takeCommand).seq = s.seq := rfl
@[simp] theorem State.takeCommand_rsp (s : State) : (s.takeCommand).rsp = s.rsp := rfl
@[simp] theorem State.takeCommand_rspValid (s : State) : (s.takeCommand).rspValid = false := rfl
@[simp] theorem State.takeCommand_trace (s : State) : (s.takeCommand).trace = s.trace := rfl
@[simp] theorem State.takeCommand_chips (s : State) : (s.takeCommand).chips = s.chips := rfl
@[simp] theorem State.takeCommand_tpReady (s : State) : (s.takeCommand).tpReady = s.tpReady := rfl
@[simp] theorem State.takeCommand_tpCredit (s : State) : (s.takeCommand).tpCredit = s.tpCredit := rfl
@[simp] theorem State.takeCommand_host (s : State) : (s.takeCommand).host = s.host.drop 1 := rfl
@[simp] theorem State.takeCommand_rst (s : State) : (s.takeCommand).rst = s.rst := rfl
@[simp] theorem State.takeCommand_enc (s : State) : (s.takeCommand).enc = s.enc := rfl
@[simp] theorem State.takeCommand_free (s : State) : (s.takeCommand).free = s.free := rfl

@[simp] theorem State.acceptWord_cfg (s : State) (d : Decoded) : (s.acceptWord d).cfg = s.cfg := rfl
@[simp] theorem State.acceptWord_n (s : State) (d : Decoded) : (s.acceptWord d).n = s.n := rfl
@[simp] theorem State.acceptWord_mode (s : State) (d : Decoded) : (s.acceptWord d).mode = s.mode := rfl
@[simp] theorem State.acceptWord_fSeq (s : State) (d : Decoded) : (s.acceptWord d).fSeq = s.fSeq := rfl
@[simp] theorem State.acceptWord_fIllop (s : State) (d : Decoded) : (s.acceptWord d).fIllop = s.fIllop := rfl
@[simp] theorem State.acceptWord_fBadn (s : State) (d : Decoded) : (s.acceptWord d).fBadn = s.fBadn := rfl
@[simp] theorem State.acceptWord_fb (s : State) (d : Decoded) : (s.acceptWord d).fb = s.fb := rfl
@[simp] theorem State.acceptWord_seq (s : State) (d : Decoded) : (s.acceptWord d).seq = commandSteps d s := rfl
@[simp] theorem State.acceptWord_rsp (s : State) (d : Decoded) : (s.acceptWord d).rsp = s.rsp := rfl
@[simp] theorem State.acceptWord_rspValid (s : State) (d : Decoded) : (s.acceptWord d).rspValid = false := rfl
@[simp] theorem State.acceptWord_trace (s : State) (d : Decoded) : (s.acceptWord d).trace = s.trace := rfl
@[simp] theorem State.acceptWord_chips (s : State) (d : Decoded) : (s.acceptWord d).chips = s.chips := rfl
@[simp] theorem State.acceptWord_tpReady (s : State) (d : Decoded) : (s.acceptWord d).tpReady = s.tpReady := rfl
@[simp] theorem State.acceptWord_tpCredit (s : State) (d : Decoded) : (s.acceptWord d).tpCredit = s.tpCredit := rfl
@[simp] theorem State.acceptWord_host (s : State) (d : Decoded) : (s.acceptWord d).host = s.host.drop 1 := rfl
@[simp] theorem State.acceptWord_rst (s : State) (d : Decoded) : (s.acceptWord d).rst = s.rst := rfl
@[simp] theorem State.acceptWord_enc (s : State) (d : Decoded) : (s.acceptWord d).enc = s.enc := rfl
@[simp] theorem State.acceptWord_free (s : State) (d : Decoded) : (s.acceptWord d).free = s.free := rfl

@[simp] theorem State.afterReset_cfg (s : State) : (s.afterReset).cfg = s.cfg := rfl
@[simp] theorem State.afterReset_n (s : State) : (s.afterReset).n = 0#8 := rfl
@[simp] theorem State.afterReset_mode (s : State) : (s.afterReset).mode = .uninit := rfl
@[simp] theorem State.afterReset_fSeq (s : State) : (s.afterReset).fSeq = false := rfl
@[simp] theorem State.afterReset_fIllop (s : State) : (s.afterReset).fIllop = false := rfl
@[simp] theorem State.afterReset_fBadn (s : State) : (s.afterReset).fBadn = false := rfl
@[simp] theorem State.afterReset_fb (s : State) : (s.afterReset).fb = s.fb := rfl
@[simp] theorem State.afterReset_seq (s : State) : (s.afterReset).seq = [] := rfl
@[simp] theorem State.afterReset_rsp (s : State) : (s.afterReset).rsp = false := rfl
@[simp] theorem State.afterReset_rspValid (s : State) : (s.afterReset).rspValid = false := rfl
@[simp] theorem State.afterReset_trace (s : State) : (s.afterReset).trace = [] := rfl
@[simp] theorem State.afterReset_chips (s : State) : (s.afterReset).chips = s.chipsAfterReset := rfl
@[simp] theorem State.afterReset_tpReady (s : State) : (s.afterReset).tpReady = false := rfl
@[simp] theorem State.afterReset_tpCredit (s : State) : (s.afterReset).tpCredit = s.tpCredit := rfl
@[simp] theorem State.afterReset_host (s : State) : (s.afterReset).host = s.host := rfl
@[simp] theorem State.afterReset_rst (s : State) : (s.afterReset).rst = false := rfl
@[simp] theorem State.afterReset_enc (s : State) : (s.afterReset).enc = s.enc := rfl
@[simp] theorem State.afterReset_free (s : State) : (s.afterReset).free = s.free + 1 := rfl

/-- A raised flag is set, the others are as they were (60 R161). -/
@[simp] theorem State.raise_flag (s : State) (f g : FaultFlag) :
    (s.raise f).flag g = (s.flag g || decide (f = g)) := by
  cases f <;> cases g <;> simp [State.raise, State.flag]

@[simp] theorem State.emits_nil (s : State) : s.emits [] = s := by
  simp [State.emits]

theorem State.emits_emits (s : State) (es fs : List Event) : (s.emits es).emits fs = s.emits (es ++ fs) := by
  simp [State.emits, List.foldl_append]

theorem State.emits_singleton (s : State) (e : Event) : s.emits [e] = s.emit e := rfl

theorem State.emits_cons (s : State) (e : Event) (es : List Event) : s.emits (e :: es) = (s.emit e).emits es := by
  simp [State.emits, State.emit]

/-- FB is not touched by a call, so its bytes read as before. -/
@[simp] theorem State.emits_fbByte (s : State) (es : List Event) (r : Fin 8) (d : Nat) :
    (s.emits es).fbByte r d = s.fbByte r d := rfl

@[simp] theorem State.emit_fbByte (s : State) (e : Event) (r : Fin 8) (d : Nat) :
    (s.emit e).fbByte r d = s.fbByte r d := rfl

/-- The row sync's trace depends on FB and N alone. -/
@[simp] theorem State.emits_rowSyncEvents (s : State) (es : List Event) (r : Fin 8) :
    (s.emits es).rowSyncEvents r = s.rowSyncEvents r := rfl

theorem State.busy_eq_false_iff (s : State) : s.busy = false ↔ s.seq = [] := by
  simp [State.busy]

theorem State.accept_idle (s : State) (steps : List SeqStep) (h : s.seq = []) : s.accept steps = runSteps steps s := by
  simp [State.accept, State.busy, h]

theorem State.accept_busy (s : State) (steps : List SeqStep) (h : s.seq ≠ []) : s.accept steps = .next s := by
  simp [State.accept, State.busy, h]

end Sys2Proof.Machine
end

