-- ==== Sys2Proof/Laws/Chain.lean ====
section
/-!
SUPPORT. What the chain of chips does at each event: its length is kept, a send moves only the shift registers, a latch only
the registers of chips that hold a packet for one.
-/

namespace Sys2Proof.Machine

@[simp] theorem shiftIn_length (b : Byte) (cs : List Chip) : (shiftIn b cs).length = cs.length := by
  induction cs generalizing b with
  | nil => rfl
  | cons c cs ih => simp [shiftIn, ih]

@[simp] theorem wire_length (cfg : Config) (cs : List Chip) (e : Event) : (wire cfg cs e).length = cs.length := by
  cases e <;> simp [wire]

@[simp] theorem foldl_wire_length (cfg : Config) (es : List Event) (cs : List Chip) :
    (es.foldl (wire cfg) cs).length = cs.length := by
  induction es generalizing cs with
  | nil => rfl
  | cons e es ih => simp [ih]

/-- A send moves no register of any chip. -/
theorem shiftIn_map_reg (b : Byte) (cs : List Chip) : (shiftIn b cs).map Chip.reg = cs.map Chip.reg := by
  induction cs generalizing b with
  | nil => rfl
  | cons c cs ih => simp [shiftIn, ih]

/-- The byte a chip passes on is the older half of its shift register. -/
theorem shiftIn_cons (b : Byte) (c : Chip) (cs : List Chip) :
    shiftIn b (c :: cs) = { c with sr := mkPacket (packetValue c.sr) b } :: shiftIn (packetAddr c.sr) cs := rfl

/-- The registers of a chip after a latch. -/
theorem chip_latch_reg (cfg : Config) (c : Chip) :
    (c.latch cfg).reg = if isChipRegister cfg (packetAddr c.sr) then
      memWrite c.reg (packetAddr c.sr).toNat (packetValue c.sr) else c.reg := by
  unfold Chip.latch
  split <;> rfl

@[simp] theorem chip_latch_sr (cfg : Config) (c : Chip) : (c.latch cfg).sr = c.sr := by
  unfold Chip.latch
  split <;> rfl

@[simp] theorem packetAddr_mkPacket (a v : Byte) : packetAddr (mkPacket a v) = a := by
  apply BitVec.eq_of_getLsbD_eq
  intro i hi
  have h : (a ++ v).getLsbD (8 + i) = _ := BitVec.getLsbD_append
  simpa [packetAddr, mkPacket, hi] using h

@[simp] theorem packetValue_mkPacket (a v : Byte) : packetValue (mkPacket a v) = v := by
  apply BitVec.eq_of_getLsbD_eq
  intro i hi
  have h : (a ++ v).getLsbD i = _ := BitVec.getLsbD_append
  simpa [packetValue, mkPacket, hi] using h

/-- A row's digit register is one of the thirteen, and two rows have different ones. -/
theorem isChipRegister_digitReg (cfg : Config) (r : Fin 8) : isChipRegister cfg (digitReg r) = true := by
  have : isDigitAddress (digitReg r) = true := by revert r; decide
  simp [isChipRegister, this]

theorem digitReg_inj {r q : Fin 8} : digitReg r = digitReg q ↔ r = q := by
  revert r q
  decide

end Sys2Proof.Machine
end

