-- ==== Sys2Proof/Laws/Decoder.lean ====
section
/-!
SUPPORT. The pixel address decoder and the bit operations of a pixel write, each said once.
-/

namespace Sys2Proof.Machine

theorem valid_iff {n : Byte} {x y : Int} :
    valid n x y = true ↔ 0 ≤ x ∧ x < 8 * (n.toNat : Int) ∧ 0 ≤ y ∧ y < 8 := by
  simp [valid]

theorem locate_of_invalid {n : Byte} {x y : Int} (h : valid n x y = false) : locate n x y = none := by
  simp [locate, h]

theorem locate_of_valid {n : Byte} {x y : Int} (h : valid n x y = true) : locate n x y = some (address x y) := by
  simp [locate, h]

theorem address_row_val {x y : Int} (h0 : 0 ≤ y) (h8 : y < 8) : ((address x y).row.val : Int) = y := by
  show ((y.toNat % 8 : Nat) : Int) = y
  omega

theorem address_bit_val {x y : Int} : (address x y).bit.val = 7 - x.toNat % 8 := by
  show (7 - x.toNat % 8) % 8 = _
  omega

theorem address_device {x y : Int} : (address x y).device = x.toNat / 8 := rfl

/-- What the decoder gives for a coordinate (40 R81, R82): the row, device and bit of the coordinate, all in range. -/
theorem locate_eq_some {n : Byte} {x y : Int} {p : PixelAddr} (h : locate n x y = some p) :
    valid n x y = true ∧ p.device < n.toNat ∧ (p.row.val : Int) = y ∧ x = 8 * (p.device : Int) + 7 - (p.bit.val : Int) := by
  unfold locate at h
  split at h
  · rename_i hv
    obtain ⟨h0, h1, h2, h3⟩ := valid_iff.1 hv
    obtain rfl : address x y = p := by simpa using h
    refine ⟨hv, ?_, address_row_val h2 h3, ?_⟩
    · rw [address_device]
      omega
    · rw [address_bit_val, address_device]
      omega
  · cases h

/-- A located byte exists, so its device index is below 256. -/
theorem locate_device_lt {n : Byte} {x y : Int} {p : PixelAddr} (h : locate n x y = some p) :
    p.device < n.toNat ∧ p.device < 256 := by
  have := (locate_eq_some h).2.1
  exact ⟨this, lt_trans this n.isLt⟩

/-- `1 << k` is the byte with only bit `k` set (00 R12). -/
theorem oneBit_getLsbD (k i : Fin 8) : (1#8 <<< k.val).getLsbD i.val = decide (i = k) := by
  revert i k
  decide

/-- The bits of a byte after one is put (41 R91). -/
theorem putBit_getLsbD (k i : Fin 8) (on : Bool) (b : Byte) :
    (putBit k on b).getLsbD i.val = if i = k then on else b.getLsbD i.val := by
  have hi := i.isLt
  have key := oneBit_getLsbD k i
  unfold putBit
  generalize (1#8 <<< k.val) = m at key ⊢
  cases on <;> by_cases h : i = k <;> simp_all

/-- The bits of a byte after one is flipped (41 R95). -/
theorem flipBit_getLsbD (k i : Fin 8) (b : Byte) :
    (flipBit k b).getLsbD i.val = if i = k then !b.getLsbD i.val else b.getLsbD i.val := by
  have key := oneBit_getLsbD k i
  unfold flipBit
  generalize (1#8 <<< k.val) = m at key ⊢
  by_cases h : i = k <;> simp_all

end Sys2Proof.Machine
end

