-- ==== Sys2Proof/Laws/PerInstr.lean ====
section
/-!
SUPPORT. Statements made per instruction. Family OpcodeRow: the words an instruction is encoded as, kind and fixed bits, are
those of its row in the opcode table (30 R67, R72): a command's opcode, or a packet's address.
-/

namespace Sys2Proof.Laws.OpcodeRow

open Sys2Proof.Machine

/-- The opcode of a command row (30 R67). -/
def opcodeOf : Instr → Option Byte
  | .init _ => some 0x01#8
  | .setPixel _ _ _ => some 0x02#8
  | .getPixel _ _ => some 0x03#8
  | .togglePixel _ _ => some 0x04#8
  | .clear => some 0x05#8
  | .blit _ _ _ => some 0x06#8
  | _ => none

/-- A command is encoded as a 104-bit word with its row's opcode, a packet kind as a 16-bit word with one of the thirteen
addresses and its value. -/
def Statement (i : Instr) : Prop :=
  ∀ c : Config, match encode c i with
    | .command w => i.isCommand = true ∧ opcodeOf i = some (opField w)
    | .packet w => i.isCommand = false ∧ opcodeOf i = none ∧ isChipRegister c (packetAddr w) = true

/-- The opcode of a word put together from its fields (30 R62). -/
theorem opField_mkCommand (op : Byte) (a b : BitVec 16) (p : BitVec 64) : opField (mkCommand op a b p) = op := by
  apply BitVec.eq_of_getLsbD_eq
  intro i hi
  have h : (op ++ a ++ b ++ p).getLsbD (96 + i) = _ := BitVec.getLsbD_append
  rw [if_neg (by omega)] at h
  have h2 : (op ++ a ++ b).getLsbD (96 + i - 64) = _ := BitVec.getLsbD_append
  rw [if_neg (by omega)] at h2
  have h3 : (op ++ a).getLsbD (96 + i - 64 - 16) = _ := BitVec.getLsbD_append
  rw [if_neg (by omega)] at h3
  have h4 : 96 + i - 64 - 16 - 16 = i := by omega
  rw [h2, h3, h4] at h
  simpa [opField, mkCommand, hi] using h

theorem digit_register (c : Config) (a : Byte) (h : isDigitAddress a = true) : isChipRegister c a = true := by
  simp [isChipRegister, h]

theorem init (n : Nat) : Statement (.init n) := fun _ => ⟨rfl, by rw [opField_mkCommand]; rfl⟩
theorem setPixel (x y : Int) (on : Bool) : Statement (.setPixel x y on) :=
  fun _ => ⟨rfl, by rw [opField_mkCommand]; rfl⟩
theorem getPixel (x y : Int) : Statement (.getPixel x y) := fun _ => ⟨rfl, by rw [opField_mkCommand]; rfl⟩
theorem togglePixel (x y : Int) : Statement (.togglePixel x y) := fun _ => ⟨rfl, by rw [opField_mkCommand]; rfl⟩
theorem clear : Statement .clear := fun _ => ⟨rfl, by rw [opField_mkCommand]; rfl⟩
theorem blit (ox oy : Int) (sprite : Sprite) : Statement (.blit ox oy sprite) :=
  fun _ => ⟨rfl, by rw [opField_mkCommand]; rfl⟩
theorem digit0 (v : Byte) : Statement (.digit0 v) :=
  fun c => ⟨rfl, rfl, by rw [packetAddr_mkPacket]; exact digit_register c _ (by decide)⟩
theorem digit1 (v : Byte) : Statement (.digit1 v) :=
  fun c => ⟨rfl, rfl, by rw [packetAddr_mkPacket]; exact digit_register c _ (by decide)⟩
theorem digit2 (v : Byte) : Statement (.digit2 v) :=
  fun c => ⟨rfl, rfl, by rw [packetAddr_mkPacket]; exact digit_register c _ (by decide)⟩
theorem digit3 (v : Byte) : Statement (.digit3 v) :=
  fun c => ⟨rfl, rfl, by rw [packetAddr_mkPacket]; exact digit_register c _ (by decide)⟩
theorem digit4 (v : Byte) : Statement (.digit4 v) :=
  fun c => ⟨rfl, rfl, by rw [packetAddr_mkPacket]; exact digit_register c _ (by decide)⟩
theorem digit5 (v : Byte) : Statement (.digit5 v) :=
  fun c => ⟨rfl, rfl, by rw [packetAddr_mkPacket]; exact digit_register c _ (by decide)⟩
theorem digit6 (v : Byte) : Statement (.digit6 v) :=
  fun c => ⟨rfl, rfl, by rw [packetAddr_mkPacket]; exact digit_register c _ (by decide)⟩
theorem digit7 (v : Byte) : Statement (.digit7 v) :=
  fun c => ⟨rfl, rfl, by rw [packetAddr_mkPacket]; exact digit_register c _ (by decide)⟩
theorem scanLimit (v : Byte) : Statement (.scanLimit v) :=
  fun c => ⟨rfl, rfl, by rw [packetAddr_mkPacket]; simp [isChipRegister, Config.configAddresses]⟩
theorem displayTest (v : Byte) : Statement (.displayTest v) :=
  fun c => ⟨rfl, rfl, by rw [packetAddr_mkPacket]; simp [isChipRegister, Config.configAddresses]⟩
theorem decodeMode (v : Byte) : Statement (.decodeMode v) :=
  fun c => ⟨rfl, rfl, by rw [packetAddr_mkPacket]; simp [isChipRegister, Config.configAddresses]⟩
theorem intensity (v : Byte) : Statement (.intensity v) :=
  fun c => ⟨rfl, rfl, by rw [packetAddr_mkPacket]; simp [isChipRegister, Config.configAddresses]⟩
theorem shutdown (v : Byte) : Statement (.shutdown v) :=
  fun c => ⟨rfl, rfl, by rw [packetAddr_mkPacket]; simp [isChipRegister, Config.configAddresses]⟩

end Sys2Proof.Laws.OpcodeRow
end

