-- ==== Sys2Proof/Laws/Run.lean ====
section
/-!
SUPPORT. What one primitive step can do, said once (act_done_cases), and how step lists run: composition, the induction over
a run, and the straight run when every call returns.
-/

namespace Sys2Proof.Machine

/-! ### Transfer Primitive calls -/

/-- A call that is done has spent one credit and emitted its event. -/
theorem State.tpCall_done {s t : State} {e : Event} (h : s.tpCall e = .done t) :
    s.tpCredit ≠ some 0 ∧ t = { s with tpCredit := spendCredit s.tpCredit }.emit e := by
  unfold State.tpCall at h
  split at h
  · cases h
  · exact ⟨‹_›, by simpa using h.symm⟩

/-- When every call returns, a call is done and only emits its event. -/
theorem State.tpCall_returns {s : State} (e : Event) (h : s.tpCredit = none) : s.tpCall e = .done (s.emit e) := by
  have : spendCredit s.tpCredit = s.tpCredit := by rw [h]; rfl
  unfold State.tpCall
  rw [if_neg (by simp [h]), this]

theorem State.tpCall_waits {s : State} (e : Event) (h : s.tpCredit = some 0) : s.tpCall e = .wait := by
  unfold State.tpCall
  rw [if_pos h]

theorem State.tpTraffic_returns {s : State} (e : Event) (hr : s.tpReady = true) (h : s.tpCredit = none) :
    s.tpTraffic e = .done (s.emit e) := by
  unfold State.tpTraffic
  rw [if_pos hr, State.tpCall_returns e h]

theorem State.tpTraffic_done {s t : State} {e : Event} (h : s.tpTraffic e = .done t) :
    s.tpReady = true ∧ s.tpCredit ≠ some 0 ∧ t = { s with tpCredit := spendCredit s.tpCredit }.emit e := by
  unfold State.tpTraffic at h
  split at h
  · exact ⟨‹_›, State.tpCall_done h⟩
  · cases h

theorem State.tpInit_done {s t : State} (h : s.tpInit = .done t) :
    s.tpCredit ≠ some 0 ∧
      t = { { s with tpCredit := spendCredit s.tpCredit }.emit .init with tpReady := true } := by
  unfold State.tpInit at h
  cases hc : s.tpCall .init with
  | done u =>
    rw [hc] at h
    obtain ⟨h1, rfl⟩ := State.tpCall_done hc
    exact ⟨h1, by simpa using h.symm⟩
  | wait => rw [hc] at h; cases h
  | stop f => rw [hc] at h; cases h

theorem State.tpInit_returns {s : State} (h : s.tpCredit = none) :
    s.tpInit = .done { s.emit .init with tpReady := true } := by
  unfold State.tpInit
  rw [State.tpCall_returns _ h]

theorem State.fbModify_done {s t : State} {r : Fin 8} {d : Nat} {f : Byte → Byte} (h : s.fbModify r d f = .done t) :
    d < s.n.toNat ∧ t = s.fbStore r d (f (s.fbByte r d)) := by
  unfold State.fbModify at h
  split at h
  · rename_i hd
    exact ⟨by simpa [State.fbExists] using hd, by simpa using h.symm⟩
  · cases h

theorem State.fbModify_of_lt {s : State} {r : Fin 8} {d : Nat} (f : Byte → Byte) (h : d < s.n.toNat) :
    s.fbModify r d f = .done (s.fbStore r d (f (s.fbByte r d))) := by
  unfold State.fbModify
  rw [if_pos (by simpa [State.fbExists] using h)]

/-! ### One primitive step -/

/-- Everything a primitive step can do when it is done: a register write, one byte of an FB row that exists, a response, a
flag, one Transfer Primitive call, or nothing. -/
theorem SeqStep.act_done_cases {op : SeqStep} {s t : State} (h : op.act s = .done t) :
    (∃ n, op = .writeN n ∧ t = { s with n := n }) ∨ (∃ m, op = .setMode m ∧ t = { s with mode := m }) ∨
    (∃ r d v, d < s.n.toNat ∧ op.inBody s.n = true ∧ t = s.fbStore r d v) ∨
    (∃ b, t = s.respond b ∧ op.inBody s.n = false) ∨
    (∃ f, op = .raise f ∧ t = s.raise f) ∨
    (op = .tpInit ∧ s.tpCredit ≠ some 0 ∧
      t = { { s with tpCredit := spendCredit s.tpCredit }.emit .init with tpReady := true }) ∨
    (∃ e, e ≠ .init ∧ op.inBody s.n = true ∧ s.tpReady = true ∧ s.tpCredit ≠ some 0 ∧
      t = { s with tpCredit := spendCredit s.tpCredit }.emit e) ∨
    (op = .finish ∧ t = s) := by
  cases op with
  | writeN n => exact .inl ⟨n, rfl, by simpa [SeqStep.act] using h.symm⟩
  | setMode m => exact .inr (.inl ⟨m, rfl, by simpa [SeqStep.act] using h.symm⟩)
  | fbZero r d =>
    simp only [SeqStep.act] at h
    obtain ⟨h1, h2⟩ := State.fbModify_done h
    exact .inr (.inr (.inl ⟨r, d, _, h1, by simpa [SeqStep.inBody] using h1, h2⟩))
  | fbPut r d k on =>
    simp only [SeqStep.act] at h
    obtain ⟨h1, h2⟩ := State.fbModify_done h
    exact .inr (.inr (.inl ⟨r, d, _, h1, by simpa [SeqStep.inBody] using h1, h2⟩))
  | fbFlip r d k =>
    simp only [SeqStep.act] at h
    obtain ⟨h1, h2⟩ := State.fbModify_done h
    exact .inr (.inr (.inl ⟨r, d, _, h1, by simpa [SeqStep.inBody] using h1, h2⟩))
  | respond b => exact .inr (.inr (.inr (.inl ⟨b, by simpa [SeqStep.act] using h.symm, rfl⟩)))
  | respondPixel r d k =>
    rw [SeqStep.act] at h
    split at h
    · exact .inr (.inr (.inr (.inl ⟨_, (StepResult.done.inj h).symm, rfl⟩)))
    · cases h
  | raise f => exact .inr (.inr (.inr (.inr (.inl ⟨f, rfl, by simpa [SeqStep.act] using h.symm⟩))))
  | tpInit =>
    obtain ⟨h1, h2⟩ := State.tpInit_done h
    exact .inr (.inr (.inr (.inr (.inr (.inl ⟨rfl, h1, h2⟩)))))
  | tpSend b =>
    obtain ⟨h1, h2, h3⟩ := State.tpTraffic_done h
    exact .inr (.inr (.inr (.inr (.inr (.inr (.inl ⟨.send b, by simp, rfl, h1, h2, h3⟩))))))
  | tpSendFb r d =>
    rw [SeqStep.act] at h
    split at h
    · rename_i hd
      obtain ⟨h1, h2, h3⟩ := State.tpTraffic_done h
      exact .inr (.inr (.inr (.inr (.inr (.inr (.inl ⟨_, by simp,
        by simpa [SeqStep.inBody, State.fbExists] using hd, h1, h2, h3⟩))))))
    · cases h
  | tpLatch =>
    obtain ⟨h1, h2, h3⟩ := State.tpTraffic_done h
    exact .inr (.inr (.inr (.inr (.inr (.inr (.inl ⟨.latch, by simp, rfl, h1, h2, h3⟩))))))
  | finish => exact .inr (.inr (.inr (.inr (.inr (.inr (.inr ⟨rfl, by simpa [SeqStep.act] using h.symm⟩))))))

/-- What no primitive step changes. -/
theorem SeqStep.act_frame {op : SeqStep} {s t : State} (h : op.act s = .done t) :
    t.cfg = s.cfg ∧ t.seq = s.seq ∧ t.host = s.host ∧ t.rst = s.rst ∧ t.enc = s.enc ∧ t.free = s.free := by
  rcases SeqStep.act_done_cases h with ⟨n, _, rfl⟩ | ⟨m, _, rfl⟩ | ⟨r, d, v, _, _, rfl⟩ | ⟨b, rfl, _⟩ |
    ⟨f, _, rfl⟩ | ⟨_, _, rfl⟩ | ⟨e, _, _, _, _, rfl⟩ | ⟨_, rfl⟩ <;> simp

/-- No step waits when every call returns. -/
theorem SeqStep.act_ne_wait {op : SeqStep} {s : State} (h : s.tpCredit = none) : op.act s ≠ .wait := by
  have h1 : ∀ e, s.tpTraffic e ≠ .wait := fun e => by
    unfold State.tpTraffic
    split
    · rw [State.tpCall_returns e h]; simp
    · simp
  cases op with
  | tpInit => rw [SeqStep.act, State.tpInit_returns h]; simp
  | tpSend b => exact h1 _
  | tpLatch => exact h1 _
  | tpSendFb r d => rw [SeqStep.act]; split <;> simp [h1]
  | fbZero r d => rw [SeqStep.act, State.fbModify]; split <;> simp
  | fbPut r d k on => rw [SeqStep.act, State.fbModify]; split <;> simp
  | fbFlip r d k => rw [SeqStep.act, State.fbModify]; split <;> simp
  | respondPixel r d k => rw [SeqStep.act]; split <;> simp
  | writeN n => simp [SeqStep.act]
  | setMode m => simp [SeqStep.act]
  | respond b => simp [SeqStep.act]
  | raise f => simp [SeqStep.act]
  | finish => simp [SeqStep.act]

/-- That every call returns is kept. -/
theorem SeqStep.act_credit_none {op : SeqStep} {s t : State} (h : op.act s = .done t) (hc : s.tpCredit = none) :
    t.tpCredit = none := by
  rcases SeqStep.act_done_cases h with ⟨n, _, rfl⟩ | ⟨m, _, rfl⟩ | ⟨r, d, v, _, _, rfl⟩ | ⟨b, rfl, _⟩ |
    ⟨f, _, rfl⟩ | ⟨_, _, rfl⟩ | ⟨e, _, _, _, _, rfl⟩ | ⟨_, rfl⟩ <;> simp [hc, spendCredit]

/-! ### Runs of step lists -/

@[simp] theorem runSteps_nil (s : State) : runSteps [] s = .next s := rfl

theorem runSteps_cons_done {op : SeqStep} {ops : List SeqStep} {s t : State} (h : op.act s = .done t) :
    runSteps (op :: ops) s = runSteps ops t := by
  rw [runSteps, h]

/-- Everything a run can do: it is the steps that were done, one after another, to the end of the list or to a step that
waits, whose rest stays to be done. -/
theorem runSteps_next_cases {ops : List SeqStep} {s t : State} (h : runSteps ops s = .next t) :
    (ops = [] ∧ t = s) ∨
    (∃ op rest u, ops = op :: rest ∧ op.act s = .done u ∧ runSteps rest u = .next t) ∨
    (∃ op rest, ops = op :: rest ∧ op.act s = .wait ∧ t = { s with seq := ops ++ s.seq }) := by
  cases ops with
  | nil => exact .inl ⟨rfl, by simpa using h.symm⟩
  | cons op rest =>
    rw [runSteps] at h
    cases ha : op.act s with
    | done u => rw [ha] at h; exact .inr (.inl ⟨op, rest, u, rfl, ha, h⟩)
    | wait => rw [ha] at h; exact .inr (.inr ⟨op, rest, rfl, ha, by simpa using h.symm⟩)
    | stop f => rw [ha] at h; cases h

/-- The induction over a run, packaged once: what every done step of the list keeps, and what does not look at the
sequencer, holds in the next state. -/
theorem runSteps_induct {P : State → Prop} {ops : List SeqStep}
    (hstep : ∀ op ∈ ops, ∀ s t, P s → op.act s = .done t → P t)
    (hseq : ∀ s q, P s → P { s with seq := q })
    {s t : State} (hs : P s) (h : runSteps ops s = .next t) : P t := by
  induction ops generalizing s with
  | nil => obtain rfl : s = t := by simpa using h
           exact hs
  | cons op rest ih =>
    rcases runSteps_next_cases h with ⟨h1, _⟩ | ⟨op', rest', u, h1, h2, h3⟩ | ⟨op', rest', h1, _, rfl⟩
    · cases h1
    · cases h1
      exact ih (fun o ho => hstep o (List.mem_cons_of_mem _ ho)) (hstep op (by simp) s u hs h2) h3
    · exact hseq _ _ hs

/-- What no run changes, whether it completes or waits. -/
theorem runSteps_frame {ops : List SeqStep} {s t : State} (h : runSteps ops s = .next t) :
    t.cfg = s.cfg ∧ t.host = s.host ∧ t.rst = s.rst ∧ t.enc = s.enc ∧ t.free = s.free := by
  refine runSteps_induct (P := fun u => u.cfg = s.cfg ∧ u.host = s.host ∧ u.rst = s.rst ∧ u.enc = s.enc ∧
    u.free = s.free) ?_ (fun _ _ h => h) ⟨rfl, rfl, rfl, rfl, rfl⟩ h
  rintro op - u v ⟨h1, h2, h3, h4, h5⟩ ha
  obtain ⟨g1, _, g3, g4, g5, g6⟩ := SeqStep.act_frame ha
  exact ⟨g1.trans h1, g3.trans h2, g4.trans h3, g5.trans h4, g6.trans h5⟩

/-- When every call returns, a list in two parts runs as the one and then the other. -/
theorem runSteps_append {as bs : List SeqStep} {s t : State} (hc : s.tpCredit = none) (h : runSteps as s = .next t) :
    runSteps (as ++ bs) s = runSteps bs t := by
  induction as generalizing s with
  | nil => obtain rfl : s = t := by simpa using h
           rfl
  | cons op rest ih =>
    rcases runSteps_next_cases h with ⟨h1, _⟩ | ⟨op', rest', u, h1, h2, h3⟩ | ⟨op', rest', _, h2, _⟩
    · cases h1
    · cases h1
      rw [List.cons_append, runSteps_cons_done h2]
      exact ih (SeqStep.act_credit_none h2 hc) h3
    · exact absurd h2 (SeqStep.act_ne_wait hc)

/-- One send when every call returns. -/
theorem runSteps_tpSend {s : State} {b : Byte} {ops : List SeqStep} (hr : s.tpReady = true) (hc : s.tpCredit = none) :
    runSteps (.tpSend b :: ops) s = runSteps ops (s.emit (.send b)) :=
  runSteps_cons_done (State.tpTraffic_returns _ hr hc)

/-- One send of an FB byte when every call returns. -/
theorem runSteps_tpSendFb {s : State} {r : Fin 8} {d : Nat} {ops : List SeqStep} (hd : d < s.n.toNat)
    (hr : s.tpReady = true) (hc : s.tpCredit = none) :
    runSteps (.tpSendFb r d :: ops) s = runSteps ops (s.emit (.send (s.fbByte r d))) := by
  refine runSteps_cons_done ?_
  rw [SeqStep.act, if_pos (by simpa [State.fbExists] using hd)]
  exact State.tpTraffic_returns _ hr hc

/-- One latch when every call returns. -/
theorem runSteps_tpLatch {s : State} {ops : List SeqStep} (hr : s.tpReady = true) (hc : s.tpCredit = none) :
    runSteps (.tpLatch :: ops) s = runSteps ops (s.emit .latch) :=
  runSteps_cons_done (State.tpTraffic_returns _ hr hc)

/-- RowSync, once for all callers (42 R111, R112): when every call returns it emits its trace and changes nothing else. -/
theorem runSteps_rowSync {s : State} (r : Fin 8) (hr : s.tpReady = true) (hc : s.tpCredit = none) :
    runSteps (rowSyncSteps s.n r) s = .next (s.emits (s.rowSyncEvents r)) := by
  have key : ∀ (ds : List Nat) (u : State), (∀ d ∈ ds, d < u.n.toNat) → u.tpReady = true → u.tpCredit = none →
      runSteps ((ds.flatMap fun d => [SeqStep.tpSend (digitReg r), .tpSendFb r d]) ++ [.tpLatch]) u =
        .next (u.emits ((ds.flatMap fun d => packetEvents (digitReg r) (u.fbByte r d)) ++ [.latch])) := by
    intro ds
    induction ds with
    | nil =>
      intro u _ h1 h2
      rw [List.flatMap_nil, List.nil_append, runSteps_tpLatch h1 h2]
      rfl
    | cons d ds ih =>
      intro u hd h1 h2
      have hdn : d < u.n.toNat := hd d (by simp)
      simp only [List.flatMap_cons, List.append_assoc, List.cons_append, List.nil_append]
      rw [runSteps_tpSend h1 h2, runSteps_tpSendFb (by simpa using hdn) (by simpa using h1) (by simpa using h2),
        ih _ (by simpa using fun e he => hd e (by simp [he])) (by simpa using h1) (by simpa using h2)]
      simp [packetEvents, State.emits_cons]
  exact key _ s (by simp [devicesDown]) hr hc

/-- CfgWrite, once for all callers (43 R127). -/
theorem runSteps_cfgWrite {s : State} (n : Byte) (a v : Byte) (hr : s.tpReady = true) (hc : s.tpCredit = none) :
    runSteps (cfgWriteSteps n a v) s = .next (s.emits (equalPackets n.toNat a v)) := by
  have key : ∀ (ds : List Nat) (u : State), u.tpReady = true → u.tpCredit = none →
      runSteps ((ds.flatMap fun _ => sendPacketSteps a v) ++ [.tpLatch]) u =
        .next (u.emits (equalPackets ds.length a v)) := by
    intro ds
    induction ds with
    | nil =>
      intro u h1 h2
      rw [List.flatMap_nil, List.nil_append, runSteps_tpLatch h1 h2]
      rfl
    | cons d ds ih =>
      intro u h1 h2
      simp only [List.flatMap_cons, sendPacketSteps, List.cons_append, List.nil_append]
      rw [runSteps_tpSend h1 h2, runSteps_tpSend (by simpa using h1) (by simpa using h2)]
      have := ih ((u.emit (.send a)).emit (.send v)) (by simpa using h1) (by simpa using h2)
      simp only [sendPacketSteps] at this
      rw [this]
      simp [equalPackets, packetEvents, List.replicate_succ, State.emits_cons]
  have := key (devicesDown n) s hr hc
  rw [show (devicesDown n).length = n.toNat by simp [devicesDown]] at this
  exact this

end Sys2Proof.Machine
end

