-- ==== Sys2Proof/Laws/Sequencer.lean ====
section
/-!
SUPPORT. The meanings in terms of the step lists they are unrolled into, and everything a small step of the block can do.
-/

namespace Sys2Proof.Machine

/-- A command's meaning is the acceptance of its step list. -/
theorem exec_command (i : Instr) (s : State) (h : i.isCommand = true) : exec i s = s.accept (stepList i s) := by
  cases i <;> first | rfl | cases h

/-- A packet's meaning is the run of its two sends. -/
theorem exec_packet (i : Instr) (s : State) (h : i.isCommand = false) : exec i s = runSteps (stepList i s) s := by
  cases i <;> first | rfl | cases h

/-- From an idle block every meaning is the run of its step list. -/
theorem exec_idle (i : Instr) (s : State) (h : s.seq = []) : exec i s = runSteps (stepList i s) s := by
  cases hc : i.isCommand with
  | true => rw [exec_command i s hc, State.accept_idle _ _ h]
  | false => exact exec_packet i s hc

/-- What a step list reads of the state. -/
theorem stepList_congr (i : Instr) {s t : State} (hc : t.cfg = s.cfg) (hn : t.n = s.n) (hm : t.mode = s.mode) :
    stepList i t = stepList i s := by
  cases i <;>
    simp only [stepList, initSteps, setPixelSteps, getPixelSteps, togglePixelSteps, clearSteps, blitSteps, operSteps,
      hc, hn, hm]

theorem orFinish_ne_nil (ops : List SeqStep) : orFinish ops ≠ [] := by
  cases ops <;> simp [orFinish]

/-- An end to do is no effect: the two lists run alike. -/
theorem runSteps_orFinish (ops : List SeqStep) (s : State) : runSteps (orFinish ops) s = runSteps ops s := by
  cases ops <;> rfl

theorem commandSteps_ne_nil (d : Decoded) (s : State) : commandSteps d s ≠ [] := by
  cases d <;> simp [commandSteps, orFinish_ne_nil]

/-- Everything an advance of the sequencer can do: nothing when Idle, one primitive done, or nothing at a call that does not
return. -/
theorem State.advance_next_cases {s t : State} (h : s.advance = .next t) :
    (s.seq = [] ∧ t = s) ∨
    (∃ op rest, s.seq = op :: rest ∧ op.act { s with seq := rest } = .done t ∧ t.seq = rest) ∨
    (∃ op rest, s.seq = op :: rest ∧ op.act { s with seq := rest } = .wait ∧ t = s) := by
  unfold State.advance at h
  split at h
  · exact .inl ⟨‹_›, by simpa using h.symm⟩
  · rename_i op rest hq
    cases ha : op.act { s with seq := rest } with
    | done u =>
      rw [ha] at h
      obtain rfl : u = t := by simpa using h
      exact .inr (.inl ⟨op, rest, hq, ha, (SeqStep.act_frame ha).2.1⟩)
    | wait => rw [ha] at h; exact .inr (.inr ⟨op, rest, hq, ha, by simpa using h.symm⟩)
    | stop f => rw [ha] at h; cases h

/-- Everything a small step of the block can do, no packet being given to the encoder and the reset input not asserted: one
advance of a busy block, the acceptance of the word on the port, or the end of the response pulse. -/
theorem State.tick_next_cases {s t : State} (hr : s.rst = false) (he : s.enc = none) (h : s.tick = .next t) :
    (s.seq ≠ [] ∧ s.advance = .next t) ∨
    (∃ w ws, s.seq = [] ∧ s.host = w :: ws ∧ t = s.acceptWord (decodeCommand w)) ∨
    (s.seq = [] ∧ s.host = [] ∧ t = s.beginStep) := by
  unfold State.tick State.fetch at h
  rw [if_neg (by simp [hr]), he] at h
  by_cases hq : s.seq = []
  · have hb : s.busy = false := (State.busy_eq_false_iff s).2 hq
    cases hh : s.host with
    | nil => simp only [hb, hh] at h; exact .inr (.inr ⟨hq, rfl, by simpa using h.symm⟩)
    | cons w ws => simp only [hb, hh] at h; exact .inr (.inl ⟨w, ws, hq, rfl, by simpa using h.symm⟩)
  · have hb : s.busy = true := by simpa [State.busy] using hq
    simp only [hb] at h
    exact .inl ⟨hq, by simpa using h⟩

end Sys2Proof.Machine
end

