-- ==== Sys2Proof/Tests/Slice0.lean ====
section
/-!
SUPPORT. Small tests, each of one step or one word, with results taken from the spec's encodings (30) and vectors (95), and a
witness for the hypotheses of every statement that has some.
-/

namespace Sys2Proof.Tests

open Sys2Proof Sys2Proof.Machine

/-! ### WellFormed: an ill-formed term for each check -/

theorem test_wf_init_refused : Instr.wf (.init 65536) = false := by decide
theorem test_wf_setPixel_x_refused : Instr.wf (.setPixel 32768 0 true) = false := by decide
theorem test_wf_setPixel_y_refused : Instr.wf (.setPixel 0 (-32769) true) = false := by decide
theorem test_wf_getPixel_x_refused : Instr.wf (.getPixel (-32769) 0) = false := by decide
theorem test_wf_getPixel_y_refused : Instr.wf (.getPixel 0 32768) = false := by decide
theorem test_wf_togglePixel_x_refused : Instr.wf (.togglePixel 40000 0) = false := by decide
theorem test_wf_togglePixel_y_refused : Instr.wf (.togglePixel 0 40000) = false := by decide
theorem test_wf_blit_x_refused : Instr.wf (.blit 32768 0 0) = false := by decide
theorem test_wf_blit_y_refused : Instr.wf (.blit 0 (-32769) 0) = false := by decide
theorem test_wf_bounds_accepted : Instr.wf (.blit (-32768) 32767 0) = true ∧ Instr.wf (.init 65535) = true := by decide
theorem test_config_default_wf : Config.default.wf = true := by decide
theorem test_config_zero_nMax_refused : Config.wf { Config.default with nMax := 0#8 } = false := by decide
theorem test_config_digit_address_refused : Config.wf { Config.default with regShutdown := 0x08#8 } = false := by decide
theorem test_config_equal_addresses_refused : Config.wf { Config.default with regShutdown := 0x0A#8 } = false := by decide

/-! ### Decoding: a word written out from the encoding of each row (30 R62 to R72; 95 sections 3, 4, 6, 7) -/

/-- V4.2. -/
theorem test_decode_init : decodeCommand 0x01000200000000000000000000#104 = .instr (.init 2) := by decide
/-- V3.1. -/
theorem test_decode_setPixel : decodeCommand 0x02000900030000000000000001#104 = .instr (.setPixel 9 3 true) := by decide
/-- V3.5. -/
theorem test_decode_setPixel_negative : decodeCommand 0x02FFFF00000000000000000001#104 = .instr (.setPixel (-1) 0 true) := by decide
/-- V3.4. -/
theorem test_decode_getPixel : decodeCommand 0x03001000030000000000000000#104 = .instr (.getPixel 16 3) := by decide
/-- V3.6. -/
theorem test_decode_togglePixel : decodeCommand 0x04000900030000000000000000#104 = .instr (.togglePixel 9 3) := by decide
/-- V4.4. -/
theorem test_decode_clear : decodeCommand 0x05123456789ABCDEF012345678#104 = .instr (.clear) := by decide
/-- V6.5. -/
theorem test_decode_blit : decodeCommand 0x06000CFFFD183C7EFFFF7E3C18#104 = .instr (.blit 12 (-3) 0x183C7EFFFF7E3C18#64) := by decide
/-- V7.5. -/
theorem test_decode_reserved_00 : decodeCommand 0x00000000000000000000000000#104 = .reservedOpcode 0x00#8 := by decide
/-- V7.7. -/
theorem test_decode_reserved_FF : decodeCommand 0xFFFFFFFFFFFFFFFFFFFFFFFFFF#104 = .reservedOpcode 0xFF#8 := by decide
theorem test_decode_digit0 : decodePacket Config.default 0x01A5#16 = .instr (.digit0 0xA5#8) := by decide
theorem test_decode_digit1 : decodePacket Config.default 0x02A5#16 = .instr (.digit1 0xA5#8) := by decide
theorem test_decode_digit2 : decodePacket Config.default 0x03A5#16 = .instr (.digit2 0xA5#8) := by decide
theorem test_decode_digit3 : decodePacket Config.default 0x04A5#16 = .instr (.digit3 0xA5#8) := by decide
theorem test_decode_digit4 : decodePacket Config.default 0x05A5#16 = .instr (.digit4 0xA5#8) := by decide
theorem test_decode_digit5 : decodePacket Config.default 0x06A5#16 = .instr (.digit5 0xA5#8) := by decide
theorem test_decode_digit6 : decodePacket Config.default 0x07A5#16 = .instr (.digit6 0xA5#8) := by decide
theorem test_decode_digit7 : decodePacket Config.default 0x08A5#16 = .instr (.digit7 0xA5#8) := by decide
theorem test_decode_scanLimit : decodePacket Config.default 0x0BA5#16 = .instr (.scanLimit 0xA5#8) := by decide
theorem test_decode_displayTest : decodePacket Config.default 0x0FA5#16 = .instr (.displayTest 0xA5#8) := by decide
theorem test_decode_decodeMode : decodePacket Config.default 0x09A5#16 = .instr (.decodeMode 0xA5#8) := by decide
theorem test_decode_intensity : decodePacket Config.default 0x0AA5#16 = .instr (.intensity 0xA5#8) := by decide
theorem test_decode_shutdown : decodePacket Config.default 0x0CA5#16 = .instr (.shutdown 0xA5#8) := by decide
/-- 30 R73: an address the block never sends. -/
theorem test_decode_unknown_address : decodePacket Config.default 0x00A5#16 = .unknownPacketAddress 0x00#8 := by decide
/-- 30 R74's example of a command word as text. -/
theorem test_command_text : commandText 0x02000900030000000000000001#104 = "02 0009 0003 0000000000000001" := by decide
/-- 30 R74's syntax of BLIT. -/
theorem test_assembly_blit : Instr.assembly (.blit (-4) 0 0xFFFFFFFFFFFFFFFF#64) = "BLIT -4, 0, 0xFFFFFFFFFFFFFFFF" := by
  decide +kernel
/-- The table's numbering: bit 0 is the least significant bit of the word. -/
theorem test_table_word : decodeTableWord 104 0x03000900030000000000000000 = some (.getPixel 9 3) ∧
    decodeTableWord 16 0x0680 = some (.digit5 0x80#8) ∧ decodeTableWord 104 0 = none := by decide

/-! ### Small states -/

/-- Two chips, INIT 2 done, FB all zero. -/
def demo : State :=
  { State.reset with
    n := 2#8, mode := .oper, tpReady := true, chips := [Chip.powerOn, Chip.powerOn] }

/-- After reset, two chips. -/
def fresh : State := { State.reset with chips := [Chip.powerOn, Chip.powerOn] }

/-- One chip, every row of FB 0x0F (95 V6.2). -/
def halfLit : State :=
  { demo with n := 1#8, chips := [Chip.powerOn], fb := rows.map fun r => (fbAddr r 0, 0x0F#8) }

def batched (s : State) : State := { s with cfg := { s.cfg with blitBatched := true } }

/-- SET_PIXEL 9, 3, 1 waiting at its third send (95 P5). -/
def hung : State :=
  { demo with
    fb := [(769, 0x40#8)], trace := [.send 0x04#8, .send 0x40#8], tpCredit := some 0,
    seq := [.tpSend 0x04#8, .tpSendFb 3 0, .tpLatch] }

/-- INIT 2 waiting at `init_transfer`. -/
def initHung : State :=
  { fresh with
    n := 2#8, mode := .config, tpCredit := some 0, seq := [.tpInit, .tpSend 0x0B#8, .tpLatch, .setMode .oper] }

/-- `fresh` just after the small step that accepts INIT 2. -/
def initAccepted : State := { fresh with seq := initSequence fresh.cfg 2#8 }

/-- `fresh` just after the small step that accepts GET_PIXEL: outside OPER it responds 0 and raises `F_SEQ`. -/
def getAccepted : State := { fresh with seq := [.respond false, .raise .seq] }

/-- The outcome is a next state that passes the check. -/
def nextIs (o : Host.Outcome State Fault Refusal) (p : State → Bool) : Bool :=
  match o with
  | .next s => p s
  | .fault _ => false
  | .refused _ => false

theorem next_of_nextIs {o : Host.Outcome State Fault Refusal} {p : State → Bool} (h : nextIs o p = true) :
    ∃ t, o = .next t ∧ p t = true := by
  cases o with
  | next s => exact ⟨s, rfl, h⟩
  | fault f => cases h
  | refused r => cases h

/-- A set of packets and its latch. -/
def sends (bs : List Byte) : List Event := bs.map Event.send ++ [.latch]

/-! ### Meanings, results from 95 -/

/-- V4.1, and 43 R132's example: the trace of INIT 1. -/
theorem test_init_trace :
    nextIs (exec (.init 1) { fresh with chips := [Chip.powerOn] }) (fun t =>
      decide (t.trace = [.init] ++ sends [0x0B, 0x07] ++ sends [0x0F, 0x00] ++ sends [0x09, 0x00] ++ sends [0x01, 0x00]
        ++ sends [0x02, 0x00] ++ sends [0x03, 0x00] ++ sends [0x04, 0x00] ++ sends [0x05, 0x00] ++ sends [0x06, 0x00]
        ++ sends [0x07, 0x00] ++ sends [0x08, 0x00] ++ sends [0x0A, 0x0F] ++ sends [0x0C, 0x01])
      && decide (t.mode = .oper) && decide (t.n = 1#8) && decide (t.chipReg 0 0x0C#8 = 0x01#8)) = true := by
  decide +kernel

/-- V7.9: the compare is made on all 16 bits, so 256 is out of range and not 0. -/
theorem test_init_256 : nextIs (exec (.init 256) fresh) (fun t =>
    decide (t.faultBits = 0b100#3) && decide (t.mode = .uninit) && decide (t.n = 0#8)) = true := by decide +kernel

/-- V3.1. -/
theorem test_setPixel : nextIs (exec (.setPixel 9 3 true) demo) (fun t =>
    decide (t.fb = [(fbAddr 3 1, 0x40#8)]) && decide (t.trace = sends [0x04, 0x40, 0x04, 0x00])) = true := by
  decide +kernel

/-- V5.3 and V5.5: three chips, device 2's packet first, and each byte lands at its chip. -/
theorem test_setPixel_lands :
    nextIs (exec (.setPixel 12 5 true) { demo with
        n := 3#8, chips := [Chip.powerOn, Chip.powerOn, Chip.powerOn], fb := [(1280, 0x80#8), (1282, 0x01#8)] }) (fun t =>
      decide (t.trace = sends [0x06, 0x01, 0x06, 0x08, 0x06, 0x80]) && decide (t.chipSr 2 = 0x0601#16)
      && decide (t.chipReg 0 6#8 = 0x80#8) && decide (t.chipReg 1 6#8 = 0x08#8) && decide (t.chipReg 2 6#8 = 0x01#8)) = true := by
  decide +kernel

/-- V3.2. -/
theorem test_getPixel : nextIs (exec (.getPixel 9 3) { demo with fb := [(fbAddr 3 1, 0x40#8)] }) (fun t =>
    t.rsp && t.rspValid && decide (t.trace = [])) = true := by decide +kernel

/-- V3.4: out of range responds 0, no flag. -/
theorem test_getPixel_out_of_range : nextIs (exec (.getPixel 16 3) { demo with rsp := true }) (fun t =>
    !t.rsp && t.rspValid && decide (t.faultBits = 0#3)) = true := by decide +kernel

/-- V3.6. -/
theorem test_togglePixel : nextIs (exec (.togglePixel 9 3) { demo with fb := [(fbAddr 3 1, 0x40#8)] }) (fun t =>
    decide (t.fb = []) && decide (t.trace = sends [0x04, 0x00, 0x04, 0x00])) = true := by decide +kernel

/-- V3.11. -/
theorem test_togglePixel_out_of_range : exec (.togglePixel 16 0) demo = .next demo := rfl

/-- V4.3, one chip: FB all zero, 8 latches. -/
theorem test_clear : nextIs (exec .clear halfLit) (fun t =>
    decide (t.fb = []) && decide (latchCount t.trace = 8) && decide (sendCount t.trace = 16)) = true := by decide +kernel

/-- V6.2: the sprite's right half onto columns 0..3, columns 4..7 unaffected; 8F, CF, EF, FF on row 0. -/
theorem test_blit_each : nextIs (exec (.blit (-4) 0 0xFFFFFFFFFFFFFFFF#64) halfLit) (fun t =>
    rows.all (fun r => decide (t.fbByte r 0 = 0xFF#8)) && decide (t.trace.take 12 =
      sends [0x01, 0x8F] ++ sends [0x01, 0xCF] ++ sends [0x01, 0xEF] ++ sends [0x01, 0xFF])
    && decide (latchCount t.trace = 32)) = true := by decide +kernel

/-- V6.5, batched: clipping at two edges. -/
theorem test_blit_batched : nextIs (exec (.blit 12 (-3) 0x183C7EFFFF7E3C18#64) (batched demo)) (fun t =>
    decide (t.trace = sends [0x01, 0x0F, 0x01, 0x00] ++ sends [0x02, 0x0F, 0x02, 0x00] ++ sends [0x03, 0x07, 0x03, 0x00]
      ++ sends [0x04, 0x03, 0x04, 0x00] ++ sends [0x05, 0x01, 0x05, 0x00])) = true := by decide +kernel

/-- P5: the third send never returns. -/
theorem test_setPixel_hang : nextIs (exec (.setPixel 9 3 true) { demo with tpCredit := some 2 }) (fun t =>
    decide (t.fb = [(fbAddr 3 1, 0x40#8)]) && decide (t.trace = [.send 0x04#8, .send 0x40#8]) && t.busy
    && decide (t.chipReg 1 4#8 = 0x00#8) && nextIs (step t) (fun u => decide (u = t))) = true := by decide +kernel

/-- V7.1 and V7.6, through the step. -/
theorem test_step_before_init : nextIs (step (State.reset.withFetchWord 104 0x02000000000000000000000001)) (fun t =>
    decide (t.faultBits = 0b001#3) && decide (t.trace = [])) = true := by decide +kernel
theorem test_step_reserved : nextIs (step (State.reset.withFetchWord 104 0x07000000000000000000000000)) (fun t =>
    decide (t.faultBits = 0b010#3) && decide (t.mode = .uninit)) = true := by decide +kernel

/-- 30 R72: the packet {0x01, 0xA5}. -/
theorem test_digit0 : nextIs (step (fresh.withFetchWord 16 0x01A5)) (fun t =>
    decide (t.trace = [.send 0x01#8, .send 0xA5#8]) && decide (t.chipSr 0 = 0x01A5#16)) = true := by decide +kernel
/-- 30 R72: the packet {0x02, 0xA5}. -/
theorem test_digit1 : nextIs (step (fresh.withFetchWord 16 0x02A5)) (fun t =>
    decide (t.trace = [.send 0x02#8, .send 0xA5#8]) && decide (t.chipSr 0 = 0x02A5#16)) = true := by decide +kernel
/-- 30 R72: the packet {0x03, 0xA5}. -/
theorem test_digit2 : nextIs (step (fresh.withFetchWord 16 0x03A5)) (fun t =>
    decide (t.trace = [.send 0x03#8, .send 0xA5#8]) && decide (t.chipSr 0 = 0x03A5#16)) = true := by decide +kernel
/-- 30 R72: the packet {0x04, 0xA5}. -/
theorem test_digit3 : nextIs (step (fresh.withFetchWord 16 0x04A5)) (fun t =>
    decide (t.trace = [.send 0x04#8, .send 0xA5#8]) && decide (t.chipSr 0 = 0x04A5#16)) = true := by decide +kernel
/-- 30 R72: the packet {0x05, 0xA5}. -/
theorem test_digit4 : nextIs (step (fresh.withFetchWord 16 0x05A5)) (fun t =>
    decide (t.trace = [.send 0x05#8, .send 0xA5#8]) && decide (t.chipSr 0 = 0x05A5#16)) = true := by decide +kernel
/-- 30 R72: the packet {0x06, 0xA5}. -/
theorem test_digit5 : nextIs (step (fresh.withFetchWord 16 0x06A5)) (fun t =>
    decide (t.trace = [.send 0x06#8, .send 0xA5#8]) && decide (t.chipSr 0 = 0x06A5#16)) = true := by decide +kernel
/-- 30 R72: the packet {0x07, 0xA5}. -/
theorem test_digit6 : nextIs (step (fresh.withFetchWord 16 0x07A5)) (fun t =>
    decide (t.trace = [.send 0x07#8, .send 0xA5#8]) && decide (t.chipSr 0 = 0x07A5#16)) = true := by decide +kernel
/-- 30 R72: the packet {0x08, 0xA5}. -/
theorem test_digit7 : nextIs (step (fresh.withFetchWord 16 0x08A5)) (fun t =>
    decide (t.trace = [.send 0x08#8, .send 0xA5#8]) && decide (t.chipSr 0 = 0x08A5#16)) = true := by decide +kernel
/-- 30 R72: the packet {0x0B, 0xA5}. -/
theorem test_scanLimit : nextIs (step (fresh.withFetchWord 16 0x0BA5)) (fun t =>
    decide (t.trace = [.send 0x0B#8, .send 0xA5#8]) && decide (t.chipSr 0 = 0x0BA5#16)) = true := by decide +kernel
/-- 30 R72: the packet {0x0F, 0xA5}. -/
theorem test_displayTest : nextIs (step (fresh.withFetchWord 16 0x0FA5)) (fun t =>
    decide (t.trace = [.send 0x0F#8, .send 0xA5#8]) && decide (t.chipSr 0 = 0x0FA5#16)) = true := by decide +kernel
/-- 30 R72: the packet {0x09, 0xA5}. -/
theorem test_decodeMode : nextIs (step (fresh.withFetchWord 16 0x09A5)) (fun t =>
    decide (t.trace = [.send 0x09#8, .send 0xA5#8]) && decide (t.chipSr 0 = 0x09A5#16)) = true := by decide +kernel
/-- 30 R72: the packet {0x0A, 0xA5}. -/
theorem test_intensity : nextIs (step (fresh.withFetchWord 16 0x0AA5)) (fun t =>
    decide (t.trace = [.send 0x0A#8, .send 0xA5#8]) && decide (t.chipSr 0 = 0x0AA5#16)) = true := by decide +kernel
/-- 30 R72: the packet {0x0C, 0xA5}. -/
theorem test_shutdown : nextIs (step (fresh.withFetchWord 16 0x0CA5)) (fun t =>
    decide (t.trace = [.send 0x0C#8, .send 0xA5#8]) && decide (t.chipSr 0 = 0x0CA5#16)) = true := by decide +kernel

/-! ### Small steps (00 R10, R14; 30 R60; 70 R181) -/

/-- 30 R60: acceptance is a step of its own; it takes the word, makes `busy` 1 and does nothing else of the command. -/
theorem test_tick_accepts : nextIs (demo.withFetchWord 104 0x02000900030000000000000001).tick (fun t =>
    t.busy && decide (t.host = []) && decide (t.fb = []) && decide (t.trace = [])) = true := by decide +kernel
/-- 30 R60, 60 R167: acceptance makes `busy` 1 for an out-of-range SET_PIXEL too, which then ends with nothing done. -/
theorem test_tick_accepts_out_of_range : nextIs (demo.withFetchWord 104 0x02FFFF00000000000000000001).tick (fun t =>
    t.busy && nextIs t.tick (fun u => decide (u = demo))) = true := by decide +kernel
/-- 41 R91: the small step after the acceptance writes the bit, before any call. -/
theorem test_tick_writes : nextIs (ticks 2 (demo.withFetchWord 104 0x02000900030000000000000001)) (fun t =>
    t.busy && decide (t.fbByte 3 1 = 0x40#8) && decide (t.trace = [])) = true := by decide +kernel
/-- 70 R181: `rst` abandons the command between two of its steps; the FB write made stays made, no call follows. -/
theorem test_tick_reset_abandons : nextIs (ticks 2 (demo.withFetchWord 104 0x02000900030000000000000001)) (fun t =>
    nextIs (State.tick { t with rst := true }) (fun u =>
      !u.busy && decide (u.mode = .uninit) && decide (u.fbByte 3 1 = 0x40#8) && decide (u.faultBits = 0#3))) = true := by
  decide +kernel

/-! ### Witnesses: the hypotheses of each statement can be met -/

theorem demo_ready : demo.Ready := ⟨rfl, rfl, rfl, rfl⟩
theorem batched_ready : (batched demo).Ready ∧ (batched demo).cfg.blitBatched = true := ⟨⟨rfl, rfl, rfl, rfl⟩, rfl⟩
theorem demo_memWf : memWf demo.fb = true := rfl
theorem halfLit_ready_memWf : halfLit.Ready ∧ memWf halfLit.fb = true := ⟨⟨rfl, rfl, rfl, rfl⟩, by decide⟩
theorem demo_chipsInv : demo.ChipsInv ∧ demo.ChainReaches := by
  refine ⟨?_, by unfold State.ChainReaches; decide⟩
  unfold State.ChipsInv
  decide
theorem demo_inv : demo.Inv :=
  ⟨⟨rfl, by decide⟩, demo_chipsInv.1, by decide, by decide, fun _ => rfl, by decide, .inl rfl, rfl⟩
theorem fresh_inv : fresh.Inv :=
  ⟨⟨rfl, by decide⟩, by unfold State.ChipsInv; decide, by decide, by decide, by decide, fun _ => rfl,
    .inl ⟨rfl, .inl rfl⟩, rfl⟩
theorem hung_inv : hung.Inv :=
  ⟨⟨rfl, by decide⟩, by unfold State.ChipsInv; decide, by decide, by decide, fun _ => rfl,
    by decide, .inl rfl, rfl⟩
theorem initHung_inv : initHung.Inv :=
  ⟨⟨rfl, by decide⟩, by unfold State.ChipsInv; decide, by decide, by decide, by decide,
    by decide, ⟨[.tpSend 0x0B#8, .tpLatch], by decide, rfl⟩, rfl⟩
/-- The state just after the acceptance of INIT meets the invariant. -/
theorem initAccepted_inv : initAccepted.Inv :=
  ⟨⟨rfl, by decide⟩, by unfold State.ChipsInv; decide, by decide, by decide, by decide, fun _ => rfl,
    .inr ⟨2#8, zeroSteps 2#8, (initSequence fresh.cfg 2#8).drop 17, by decide, by decide, by decide,
      ⟨((initSequence fresh.cfg 2#8).drop 19).dropLast, by decide +kernel, by decide +kernel⟩,
      .inl ⟨rfl, by decide +kernel⟩⟩, rfl⟩
theorem getAccepted_inv : getAccepted.Inv :=
  ⟨⟨rfl, by decide⟩, by unfold State.ChipsInv; decide, by decide, by decide, by decide, fun _ => rfl,
    .inl ⟨rfl, .inr (.inr (.inr (.inr (.inl ⟨false, .seq, rfl⟩))))⟩, rfl⟩
theorem demo_coherent : demo.Coherent := by
  intro r d hd
  have h : d = 0 ∨ d = 1 := by
    have : d < 2 := hd
    omega
  rcases h with rfl | rfl <;> rfl

/-- The state of `demo` with a word on the command port. -/
def demoWith (w : CommandWord) : State := { demo with host := [w] }

theorem witness_SpecWordsDecode : Config.default.wf = true ∧
    Config.wf { Config.default with regScanLimit := 0x21#8, regShutdown := 0x00#8 } = true := by decide
theorem witness_DecodeInvertsEncode : Config.default.wf = true ∧ Instr.wf (.blit (-32768) 32767 1) = true ∧
    Instr.wf (.init 65535) = true := by decide
theorem witness_ReservedWordsRefused : decodeCommand 0x07000000000000000000000000#104 = .reservedOpcode 0x07#8 := by decide
theorem witness_AddressIsBijection : valid 2#8 15 7 = true ∧ valid 2#8 0 7 = true ∧
    (PixelAddr.mk 7 1 0).device < (2#8 : Byte).toNat := by decide
theorem witness_BitLevelDecoderAgrees : valid 2#8 (0x000F#16).toInt (0x0007#16).toInt = true := by decide
theorem witness_OutOfRangeIsSilent : demo.seq = [] ∧ demo.mode = .oper ∧ valid demo.n 16 0 = false ∧
    valid demo.n (-1) 0 = false ∧ valid demo.n 0 8 = false := by decide
theorem witness_StepRunsInstruction_command : (demoWith 0x05000000000000000000000000#104).rst = false ∧
    (demoWith 0x05000000000000000000000000#104).enc = none ∧ (demoWith 0x05000000000000000000000000#104).seq = [] ∧
    decodeCommand 0x05000000000000000000000000#104 = .instr .clear := by decide
theorem witness_StepRunsInstruction_packet : (fresh.withFetchWord 16 0x0680).rst = false ∧
    (fresh.withFetchWord 16 0x0680).enc = some 0x0680#16 ∧
    decodePacket (fresh.withFetchWord 16 0x0680).cfg 0x0680#16 = .instr (.digit5 0x80#8) := by decide
theorem witness_StepRunsInstruction_busy : hung.rst = false ∧ hung.enc = none ∧ hung.seq ≠ [] := by decide
theorem witness_StepRunsInstruction_idle : demo.rst = false ∧ demo.enc = none ∧ demo.seq = [] ∧ demo.host = [] := by decide
theorem witness_ReservedOpcodeSetsIllop : (demoWith 0x07000000000000000000000000#104).rst = false ∧
    (demoWith 0x07000000000000000000000000#104).enc = none ∧ (demoWith 0x07000000000000000000000000#104).seq = [] ∧
    7 ≤ (opField 0x07000000000000000000000000#104).toNat ∧ opField 0x00000000000000000000000000#104 = 0x00#8 := by decide
theorem witness_BusyBlockIgnoresCommands : Instr.isCommand .clear = true ∧ hung.seq ≠ [] ∧ hung.rst = false ∧
    hung.enc = none := by decide
theorem witness_SetPixelResult : demo.Ready := demo_ready
theorem witness_TogglePixelResult : demo.Ready := demo_ready
theorem witness_GetPixelResult : hung.mode = .oper ∧ demo.seq = [] ∧ demo.mode = .oper := by decide
theorem witness_ClearResult : halfLit.Ready ∧ memWf halfLit.fb = true := halfLit_ready_memWf
theorem witness_InitResult : fresh.seq = [] ∧ fresh.mode = .uninit ∧ fresh.tpCredit = none ∧ memWf fresh.fb = true ∧
    1 ≤ 255 ∧ 255 ≤ fresh.cfg.nMax.toNat := by decide
theorem witness_BlitEachResult : demo.Ready ∧ demo.cfg.blitBatched = false := ⟨demo_ready, rfl⟩
theorem witness_BlitBatchedResult : (batched demo).Ready ∧ (batched demo).cfg.blitBatched = true := batched_ready
theorem witness_PacketsSendAddressThenValue : demo.tpReady = true ∧ demo.tpCredit = none := by decide
theorem witness_PacketBeforeInitFaults : Instr.isCommand (.digit0 0) = false ∧ fresh.tpReady = false := by decide
theorem witness_InitEstablishesCanvas : fresh.cfg.wf = true ∧ fresh.Inv ∧ fresh.seq = [] ∧ fresh.mode = .uninit ∧
    fresh.tpCredit = none ∧ 2 ≤ fresh.cfg.nMax.toNat ∧ 2 ≤ fresh.chips.length :=
  ⟨by decide, fresh_inv, rfl, rfl, rfl, by decide, by decide⟩
theorem witness_SequenceErrors_pixel : fresh.seq = [] ∧ fresh.mode ≠ .oper := by decide
theorem witness_SequenceErrors_init : demo.seq = [] ∧ demo.mode ≠ .uninit ∧ demo.Inv := ⟨rfl, by decide, demo_inv⟩
theorem witness_BadDeviceCount : fresh.seq = [] ∧ fresh.mode = .uninit ∧ fresh.cfg.nMax.toNat < 256 := by decide
theorem witness_FaultPriority : (demoWith 0x01000000000000000000000000#104).rst = false ∧
    (demoWith 0x01000000000000000000000000#104).enc = none ∧
    nextIs (step (demoWith 0x01000000000000000000000000#104)) (fun t => decide (t.faultBits = 0b001#3)) = true := by
  decide +kernel
theorem witness_FaultFlagsSticky : nextIs (step { demo with fBadn := true }) (fun t => t.fBadn) = true ∧
    State.flag { demo with fBadn := true } .badn = true ∧ demo.rst = false := by decide +kernel
theorem witness_CanvasLaws : demo.Ready ∧ memWf demo.fb = true ∧ valid demo.n 15 7 = true ∧ valid demo.n 0 0 = true ∧
    valid demo.n 16 0 = false := ⟨demo_ready, rfl, by decide, by decide, by decide⟩
theorem witness_ToggleLaws : demo.Ready ∧ memWf demo.fb = true ∧ locate demo.n 15 7 = some ⟨7, 1, 0⟩ :=
  ⟨demo_ready, rfl, by decide⟩
theorem witness_BlitClipping_rectangle : spriteInRange 1#8 (-4) 0 7 7 = true ∧ spriteInRange 1#8 (-4) 0 7 3 = false ∧
    (1#8 : Byte) ≠ 0#8 := by decide
theorem witness_BlitClipping_miss : demo.seq = [] ∧ demo.mode = .oper ∧
    ∀ r c, spriteInRange demo.n (-8) 0 r c = false := by decide +kernel
theorem witness_BlitFinalPixels : demo.Ready ∧ memWf demo.fb = true ∧ spriteInRange demo.n (-7) (-7) 7 7 = true ∧
    ∀ r c : Fin 8, ((c.val : Int) + (-7), (r.val : Int) + (-7)) ≠ (1, 1) := ⟨demo_ready, rfl, by decide, by decide⟩
theorem witness_BlitFormsAgree : demo.Ready ∧ memWf demo.fb = true ∧ demo.ChipsInv ∧ demo.ChainReaches ∧ demo.Coherent :=
  ⟨demo_ready, rfl, demo_chipsInv.1, demo_chipsInv.2, demo_coherent⟩
theorem witness_BlitCallCounts : demo.Ready ∧ (batched demo).Ready := ⟨demo_ready, batched_ready.1⟩
theorem witness_PacketsLandFarthestFirst :
    [(1#8, 2#8), (3#8, 4#8)].length - 1 - 1 < [Chip.powerOn].length ∧ [(1#8, 2#8), (3#8, 4#8)][1]? = some (3#8, 4#8) ∧
    [(1#8, 2#8)].length + 0 < demo.chips.length := by decide
theorem witness_LatchCommitsPackets : [Chip.mk 0x0680#16 []][0]? = some (Chip.mk 0x0680#16 []) ∧
    memWf (Chip.mk 0x0680#16 []).reg = true ∧ (Chip.mk 0x0680#16 []).sr = mkPacket 0x06#8 0x80#8 ∧
    Event.send 0#8 ≠ .latch := by decide
theorem witness_RowSyncLands : demo.tpReady = true ∧ demo.tpCredit = none ∧ demo.ChipsInv ∧ demo.ChainReaches ∧
    4 < (demo.rowSyncEvents 7).length ∧ (0x01#8 : Byte) ≠ digitReg 7 :=
  ⟨rfl, rfl, demo_chipsInv.1, demo_chipsInv.2, by decide, by decide⟩
theorem witness_LatchesFrameWholeSets : Instr.isCommand .clear = true ∧ demo.seq = [] ∧
    nextIs (exec .clear demo) (fun t => decide (latchCount t.trace = 8)) = true := by decide +kernel
theorem witness_CallCounts : demo.Ready ∧ valid demo.n 15 7 = true ∧ fresh.seq = [] ∧ fresh.mode = .uninit ∧
    fresh.tpCredit = none ∧ 255 ≤ fresh.cfg.nMax.toNat := ⟨demo_ready, by decide, rfl, rfl, rfl, by decide⟩
theorem witness_StepKeepsCoherence : demo.cfg.wf = true ∧ demo.Inv ∧ demo.Coherent ∧
    nextIs (step demo) (fun t => decide (t.seq = []) && decide (t.mode = .oper) && decide (t.n.toNat ≤ t.chips.length))
      = true := ⟨by decide, demo_inv, demo_coherent, by decide +kernel⟩
/-- A coherent canvas on configured chips: what INIT leaves (43 R134). -/
def shown : State :=
  { demo with
    n := 1#8, fb := [(0, 0x80#8)],
    chips := [⟨0#16, [(1, 0x80#8), (10, 0x0F#8), (11, 0x07#8), (12, 0x01#8)]⟩] }
theorem shown_coherent : shown.Coherent := by
  intro r d hd
  have h : d = 0 := by
    have : d < 1 := hd
    omega
  subst h
  revert r
  decide
theorem witness_DisplayShowsCanvas : shown.Coherent ∧ shown.ChainReaches ∧ 7 < 8 * shown.n.toNat ∧
    shown.chipConfigured 0 = true ∧ shown.ledLit 0 0 = some true ∧ shown.ledLit 7 0 = some false ∧
    shown.chips.length ≤ 8 / 8 ∧ shown.ledLit 8 0 = none :=
  ⟨shown_coherent, by unfold State.ChainReaches; decide, by decide, by decide, by decide, by decide, by decide, by decide⟩
theorem witness_ConfigRegistersKept : demo.Inv ∧ demo.seq = [] ∧ demo.mode = .oper ∧ demo.rst = false ∧
    1 < demo.n.toNat ∧ isDigitAddress 0x0C#8 = false ∧ nextIs (step demo) (fun _ => true) = true :=
  ⟨demo_inv, rfl, rfl, rfl, by decide, by decide, by decide +kernel⟩
theorem witness_InstructionIsItsSmallSteps : demo.seq = [] ∧ (stepList (.setPixel 9 3 true) demo).length = 6 ∧
    (demoWith 0x05000000000000000000000000#104).rst = false ∧ (demoWith 0x05000000000000000000000000#104).enc = none ∧
    (demoWith 0x05000000000000000000000000#104).seq = [] := by decide
theorem witness_TraceAfterStepsIsPrefix : nextIs (advances 2 hung) (fun _ => true) = true ∧
    nextIs ({ hung with tpCredit := none }.resume) (fun t => decide (latchCount t.trace = 1)) = true := by decide +kernel
theorem witness_WaitingThenResumingAgrees : Instr.isCommand (.setPixel 9 3 true) = true ∧ demo.seq = [] ∧
    nextIs (exec (.setPixel 9 3 true) { demo with tpCredit := some 2 }) (fun t => t.busy) = true ∧
    nextIs (exec (.setPixel 9 3 true) { demo with tpCredit := none }) (fun t => !t.busy) = true := by decide +kernel
theorem witness_HungCallSticks : hung.Inv ∧ hung.rst = false ∧ hung.request ≠ none ∧ hung.tpCredit = some 0 ∧
    initHung.Inv ∧ initHung.request ≠ none ∧ initHung.tpCredit = some 0 :=
  ⟨hung_inv, rfl, by decide, rfl, initHung_inv, by decide, rfl⟩
theorem witness_SetPixelHangLeavesChipsOld : State.seq { demo with tpCredit := some 4 } = [] ∧
    State.mode { demo with tpCredit := some 4 } = .oper ∧ State.tpReady { demo with tpCredit := some 4 } = true ∧
    4 ≤ 2 * demo.n.toNat ∧ locate demo.n 9 3 = some ⟨3, 1, 6⟩ := by decide
theorem witness_SetAndToggleFrame : memWf demo.fb = true ∧ demo.ChipsInv ∧
    nextIs (exec (.setPixel 9 3 true) demo) (fun _ => true) = true ∧
    nextIs (exec (.togglePixel 9 3) demo) (fun _ => true) = true :=
  ⟨rfl, demo_chipsInv.1, by decide +kernel, by decide +kernel⟩
theorem witness_GetPixelFrame : nextIs (exec (.getPixel 9 3) demo) (fun _ => true) = true := by decide +kernel
theorem witness_ClearFrame : memWf demo.fb = true ∧ demo.ChipsInv ∧ nextIs (exec .clear demo) (fun _ => true) = true :=
  ⟨rfl, demo_chipsInv.1, by decide +kernel⟩
theorem witness_BlitFrame : memWf demo.fb = true ∧ demo.ChipsInv ∧
    nextIs (exec (.blit 15 7 1) demo) (fun _ => true) = true := ⟨rfl, demo_chipsInv.1, by decide +kernel⟩
theorem witness_InitFrame : memWf fresh.fb = true ∧ nextIs (exec (.init 0) fresh) (fun _ => true) = true ∧
    nextIs (exec (.init 1) fresh) (fun _ => true) = true := by decide +kernel
theorem witness_PacketFrame : Instr.isCommand (.digit7 0) = false ∧
    nextIs (exec (.digit7 0) demo) (fun _ => true) = true := by decide +kernel
theorem witness_StepKeepsInvariant : demo.Inv ∧ hung.Inv ∧ initHung.Inv ∧ fresh.Inv ∧ initAccepted.Inv ∧ getAccepted.Inv :=
  ⟨demo_inv, hung_inv, initHung_inv, fresh_inv, initAccepted_inv, getAccepted_inv⟩
theorem witness_ResetStep : State.rst { hung with rst := true } = true := rfl
/-- `initAccepted` 17 small steps on: N written, FB zeroed, `mode <- CONFIG` next. -/
theorem witness_ModeIsLinear_tick : initAccepted.Inv ∧ initAccepted.rst = false ∧
    nextIs (ticks 17 initAccepted) (fun t => decide (t.mode = .uninit)) = true ∧
    nextIs (ticks 18 initAccepted) (fun t => decide (t.mode = .config)) = true ∧
    SeqStep.setMode .config ∈ initAccepted.seq :=
  ⟨initAccepted_inv, rfl, by decide +kernel, by decide +kernel, by decide +kernel⟩
theorem witness_ModeIsLinear_step : demo.Inv ∧ initHung.Inv ∧ fresh.Inv ∧ initHung.mode = .config ∧
    nextIs (step initHung) (fun t => decide (t.mode = .config)) = true ∧
    nextIs (step (fresh.withFetchWord 104 0x01000100000000000000000000)) (fun t => decide (t.mode = .oper)) = true :=
  ⟨demo_inv, initHung_inv, fresh_inv, rfl, by decide +kernel, by decide +kernel⟩
theorem witness_DeviceCountWrittenOnce : initAccepted.Inv ∧ initAccepted.rst = false ∧
    nextIs initAccepted.tick (fun t => decide (t.n ≠ initAccepted.n)) = true ∧
    SeqStep.writeN 2#8 ∈ initAccepted.seq ∧
    nextIs (step (fresh.withFetchWord 104 0x01000100000000000000000000)) (fun t => decide (t.n ≠ fresh.n)) = true :=
  ⟨initAccepted_inv, rfl, by decide +kernel, by decide +kernel, by decide +kernel⟩
theorem witness_InitTransferOnce : demo.Inv ∧ demo.tpReady = true ∧ fresh.Inv ∧ fresh.tpReady = false ∧
    nextIs (step fresh) (fun _ => true) = true := ⟨demo_inv, rfl, fresh_inv, rfl, by decide +kernel⟩
theorem witness_ResponseOnlyByGetPixel : demo.Inv ∧ demo.rst = false ∧
    nextIs (step (demo.withFetchWord 104 0x03000000000000000000000000)) (fun t => t.rspValid) = true ∧
    getAccepted.Inv ∧ nextIs (step getAccepted) (fun t => t.rspValid && t.fSeq) = true ∧
    nextIs (demo.withFetchWord 104 0x03000000000000000000000000).tick (fun t => t.seq.any SeqStep.responds) = true :=
  ⟨demo_inv, rfl, by decide +kernel, getAccepted_inv, by decide +kernel, by decide +kernel⟩

end Sys2Proof.Tests
end

section
/-!
PROOFS. The sequencer's small steps against the meanings (00 R10, R14): a primitive does the same whatever steps are left and
whether or not later calls return, so a command run at once, run by its small steps, or let wait and then resumed is one run.
-/

namespace Sys2Proof.Machine

/-! ### A primitive step looks neither at the steps that are left nor beyond its own call -/

/-- The state of a done step changed by `f`, a wait or a stop left as it is. -/
def StepResult.mapDone (f : State → State) : StepResult → StepResult
  | .done s => .done (f s)
  | .wait => .wait
  | .stop r => .stop r

theorem State.fbModify_withSeq (s : State) (q : List SeqStep) (r : Fin 8) (d : Nat) (f : Byte → Byte) :
    State.fbModify { s with seq := q } r d f = (s.fbModify r d f).mapDone fun t => { t with seq := q } := by
  rw [State.fbModify, State.fbModify, apply_ite (StepResult.mapDone _)]
  rfl

theorem State.tpCall_withSeq (s : State) (q : List SeqStep) (e : Event) :
    State.tpCall { s with seq := q } e = (s.tpCall e).mapDone fun t => { t with seq := q } := by
  rw [State.tpCall, State.tpCall, apply_ite (StepResult.mapDone _)]
  rfl

theorem State.tpTraffic_withSeq (s : State) (q : List SeqStep) (e : Event) :
    State.tpTraffic { s with seq := q } e = (s.tpTraffic e).mapDone fun t => { t with seq := q } := by
  rw [State.tpTraffic, State.tpTraffic, apply_ite (StepResult.mapDone _), State.tpCall_withSeq]
  rfl

theorem State.tpInit_withSeq (s : State) (q : List SeqStep) :
    State.tpInit { s with seq := q } = s.tpInit.mapDone fun t => { t with seq := q } := by
  rw [State.tpInit, State.tpInit, State.tpCall_withSeq]
  cases s.tpCall .init <;> rfl

/-- A primitive step does not look at the steps that are left (00 R14). -/
theorem SeqStep.act_withSeq (op : SeqStep) (s : State) (q : List SeqStep) :
    op.act { s with seq := q } = (op.act s).mapDone fun t => { t with seq := q } := by
  cases op with
  | writeN n => rfl
  | setMode m => rfl
  | fbZero r d => exact s.fbModify_withSeq q r d fun _ => 0#8
  | fbPut r d k on => exact s.fbModify_withSeq q r d _
  | fbFlip r d k => exact s.fbModify_withSeq q r d _
  | respond b => rfl
  | respondPixel r d k =>
    rw [SeqStep.act, SeqStep.act, apply_ite (StepResult.mapDone _)]
    rfl
  | raise f => cases f <;> rfl
  | tpInit => exact s.tpInit_withSeq q
  | tpSend b => exact s.tpTraffic_withSeq q _
  | tpSendFb r d =>
    rw [SeqStep.act, SeqStep.act, apply_ite (StepResult.mapDone _), ← State.tpTraffic_withSeq]
    rfl
  | tpLatch => exact s.tpTraffic_withSeq q _
  | finish => rfl

theorem State.fbModify_done_allReturn {s t : State} {r : Fin 8} {d : Nat} {f : Byte → Byte}
    (h : s.fbModify r d f = .done t) :
    State.fbModify { s with tpCredit := none } r d f = .done { t with tpCredit := none } := by
  obtain ⟨hd, rfl⟩ := State.fbModify_done h
  exact State.fbModify_of_lt f hd

theorem State.tpTraffic_done_allReturn {s t : State} {e : Event} (h : s.tpTraffic e = .done t) :
    State.tpTraffic { s with tpCredit := none } e = .done { t with tpCredit := none } := by
  obtain ⟨hr, -, rfl⟩ := State.tpTraffic_done h
  exact State.tpTraffic_returns e hr rfl

/-- A step that was done does the same when every call returns (log 9). -/
theorem SeqStep.act_done_allReturn {op : SeqStep} {s t : State} (h : op.act s = .done t) :
    op.act { s with tpCredit := none } = .done { t with tpCredit := none } := by
  cases op with
  | writeN n => cases h; rfl
  | setMode m => cases h; rfl
  | fbZero r d => exact State.fbModify_done_allReturn (f := fun _ => 0#8) h
  | fbPut r d k on => exact State.fbModify_done_allReturn h
  | fbFlip r d k => exact State.fbModify_done_allReturn h
  | respond b => cases h; rfl
  | respondPixel r d k =>
    rw [SeqStep.act] at h ⊢
    split at h
    · rename_i hd
      cases h
      exact if_pos hd
    · cases h
  | raise f => cases f <;> cases h <;> rfl
  | tpInit =>
    obtain ⟨-, rfl⟩ := State.tpInit_done h
    exact State.tpInit_returns (s := { s with tpCredit := none }) rfl
  | tpSend b => exact State.tpTraffic_done_allReturn h
  | tpSendFb r d =>
    rw [SeqStep.act] at h ⊢
    split at h
    · rename_i hd
      rw [if_pos (by exact hd)]
      exact State.tpTraffic_done_allReturn h
    · cases h
  | tpLatch => exact State.tpTraffic_done_allReturn h
  | finish => cases h; rfl

/-! ### A run is the composition of the sequencer's advances -/

/-- The remaining run after its first step is done. -/
theorem State.resume_cons_done {s t : State} {op : SeqStep} {rest : List SeqStep} (hq : s.seq = op :: rest)
    (h : op.act { s with seq := rest } = .done t) : s.resume = t.resume := by
  have h0 : op.act { s with seq := [] } = .done { t with seq := [] } := by
    rw [SeqStep.act_withSeq op { s with seq := rest } [], h]
    rfl
  have ht : t.seq = rest := (SeqStep.act_frame h).2.1
  rw [State.resume, State.resume, hq, runSteps_cons_done h0, ht]

theorem State.resume_idle {s : State} (h : s.seq = []) : s.resume = .next s := by
  rw [State.resume, h, runSteps_nil, ← h]

theorem advances_one_more {k : Nat} {s t : State} (h : s.advance = .next t) : advances (k + 1) s = advances k t := by
  rw [advances, h]

/-- An advance that changes nothing, at a call that does not return, is as good as any number of them (70 R188). -/
theorem advances_of_stuck {s : State} (h : s.advance = .next s) (k : Nat) : advances k s = .next s := by
  induction k with
  | zero => rfl
  | succ k ih => rw [advances_one_more h, ih]

/-- A busy block goes on by as many advances as it has steps left, up to a call that does not return (00 R14). -/
theorem State.resume_eq_advances (s : State) : s.resume = advances s.seq.length s := by
  induction hq : s.seq generalizing s with
  | nil => exact State.resume_idle hq
  | cons op rest ih =>
    have h0 := SeqStep.act_withSeq op { s with seq := rest } []
    cases ha : op.act { s with seq := rest } with
    | done t =>
      have hadv : s.advance = .next t := by rw [State.advance, hq]; simp only [ha]
      rw [State.resume_cons_done hq ha, ih t (SeqStep.act_frame ha).2.1, List.length_cons, advances_one_more hadv]
    | wait =>
      have hadv : s.advance = .next s := by rw [State.advance, hq]; simp only [ha]
      rw [ha] at h0
      rw [advances_of_stuck hadv, State.resume, hq, runSteps, h0]
      simp [StepResult.mapDone, ← hq]
    | stop f =>
      have hadv : s.advance = .fault f := by rw [State.advance, hq]; simp only [ha]
      rw [ha] at h0
      rw [State.resume, hq, runSteps, h0, List.length_cons, advances, hadv]
      rfl

/-- From an idle block a meaning is the run of its step list once that is loaded (10 R28). -/
theorem exec_eq_resume (i : Instr) (s : State) (h : s.seq = []) :
    exec i s = State.resume { s with seq := stepList i s } := by
  rw [exec_idle i s h, State.resume, ← h]

theorem exec_eq_advances (i : Instr) (s : State) (h : s.seq = []) :
    exec i s = advances (stepList i s).length { s with seq := stepList i s } := by
  rw [exec_eq_resume i s h, State.resume_eq_advances]

/-! ### What a step of the machine finds to do -/

theorem State.fetch_packet {s : State} {w : PacketWord} (hr : s.rst = false) (he : s.enc = some w) :
    s.fetch = .packet (decodePacket s.cfg w) := by
  simp [State.fetch, hr, he]

theorem State.fetch_busy {s : State} (hr : s.rst = false) (he : s.enc = none) (hq : s.seq ≠ []) : s.fetch = .busy := by
  simp [State.fetch, hr, he, State.busy, hq]

theorem State.fetch_command {s : State} {w : CommandWord} {ws : List CommandWord} (hr : s.rst = false)
    (he : s.enc = none) (hq : s.seq = []) (hh : s.host = w :: ws) : s.fetch = .command (decodeCommand w) := by
  simp [State.fetch, hr, he, State.busy, hq, hh]

theorem State.fetch_idle {s : State} (hr : s.rst = false) (he : s.enc = none) (hq : s.seq = []) (hh : s.host = []) :
    s.fetch = .idle := by
  simp [State.fetch, hr, he, State.busy, hq, hh]

/-- Taking the word at the head of the host's words leaves the rest (30 R60). -/
theorem State.takeCommand_eq {s : State} {w : CommandWord} {ws : List CommandWord} (hh : s.host = w :: ws) :
    s.takeCommand = { s with host := ws, rspValid := false } := by
  simp [State.takeCommand, State.beginStep, hh]

/-- A step that runs a command word runs to its end what the acceptance of the word loads (00 R10, 30 R60). -/
theorem step_command {s : State} {w : CommandWord} {ws : List CommandWord} (hr : s.rst = false) (he : s.enc = none)
    (hq : s.seq = []) (hh : s.host = w :: ws) : step s = (s.acceptWord (decodeCommand w)).resume := by
  have hseq : s.takeCommand.seq = [] := hq
  have hload : (s.acceptWord (decodeCommand w)).resume = runSteps (commandSteps (decodeCommand w) s) s.takeCommand := by
    rw [State.resume, State.acceptWord_seq, State.acceptWord, ← hseq]
  rw [step, State.fetch_command hr he hq hh, hload]
  cases decodeCommand w with
  | instr i =>
    simp only [commandSteps]
    rw [exec_idle i _ hseq, runSteps_orFinish, stepList_congr (s := s) (t := s.takeCommand) i rfl rfl rfl]
  | reservedOpcode op => exact State.accept_idle _ _ hseq
  | unknownPacketAddress a => exact State.accept_idle _ _ hseq

/-! ### Small steps of the block inside one command -/

theorem State.tick_busy {s : State} (hr : s.rst = false) (he : s.enc = none) (hq : s.seq ≠ []) :
    s.tick = s.advance := by
  rw [State.tick, State.fetch_busy hr he hq]

theorem State.tick_command {s : State} {w : CommandWord} {ws : List CommandWord} (hr : s.rst = false)
    (he : s.enc = none) (hq : s.seq = []) (hh : s.host = w :: ws) :
    s.tick = .next (s.acceptWord (decodeCommand w)) := by
  rw [State.tick, State.fetch_command hr he hq hh]

/-- One advance does at most one of the steps that are left, and leaves the reset input and the encoder alone. -/
theorem State.advance_next_frame {s t : State} (h : s.advance = .next t) :
    t.rst = s.rst ∧ t.enc = s.enc ∧ s.seq.length ≤ t.seq.length + 1 := by
  rcases State.advance_next_cases h with ⟨_, rfl⟩ | ⟨op, rest, hq, ha, ht⟩ | ⟨op, rest, _, _, rfl⟩
  · exact ⟨rfl, rfl, by omega⟩
  · obtain ⟨_, _, _, hrst, henc, _⟩ := SeqStep.act_frame ha
    exact ⟨hrst, henc, by simp [hq, ht]⟩
  · exact ⟨rfl, rfl, by omega⟩

/-- While the command in progress has steps left, the small steps of the block are the sequencer's (00 R10). -/
theorem ticks_eq_advances {k : Nat} {s : State} (hr : s.rst = false) (he : s.enc = none) (hk : k ≤ s.seq.length) :
    ticks k s = advances k s := by
  induction k generalizing s with
  | zero => rfl
  | succ k ih =>
    have hq : s.seq ≠ [] := List.ne_nil_of_length_pos (by omega)
    rw [ticks, advances, State.tick_busy hr he hq]
    cases ha : s.advance with
    | next t =>
      obtain ⟨hrst, henc, hlen⟩ := State.advance_next_frame ha
      exact ih (hrst.trans hr) (henc.trans he) (by omega)
    | fault f => rfl
    | refused r => rfl

/-- A step that runs a command word is the small step of its acceptance and as many more as that loads (00 R10). -/
theorem step_eq_ticks {s : State} {w : CommandWord} {ws : List CommandWord} (hr : s.rst = false) (he : s.enc = none)
    (hq : s.seq = []) (hh : s.host = w :: ws) :
    step s = ticks ((commandSteps (decodeCommand w) s).length + 1) s := by
  have hrest := ticks_eq_advances (s := s.acceptWord (decodeCommand w)) hr he le_rfl
  rw [step_command hr he hq hh, State.resume_eq_advances, ← hrest, ticks, State.tick_command hr he hq hh,
    State.acceptWord_seq]

/-- Settles O42: a run is the composition of the sequencer's advances, and inside one command those are the block's small
steps. -/
theorem instructionIsItsSmallSteps : Obligations.InstructionIsItsSmallSteps := by
  refine ⟨exec_eq_advances, fun s w ws hr he hq hh => ⟨?_, ?_, step_eq_ticks hr he hq hh⟩⟩
  · rw [State.tick_command hr he hq hh, State.acceptWord, State.takeCommand_eq hh]
  · simp [State.busy, commandSteps_ne_nil]

/-! ### Waiting and resuming -/

/-- An advance leaves the end of the run, every call returning, where it was (00 R14). -/
theorem State.advance_keeps_end {s t : State} (h : s.advance = .next t) :
    State.resume { t with tpCredit := none } = State.resume { s with tpCredit := none } := by
  rcases State.advance_next_cases h with ⟨_, rfl⟩ | ⟨op, rest, hq, ha, _⟩ | ⟨op, rest, _, _, rfl⟩
  · rfl
  · exact (State.resume_cons_done (s := { s with tpCredit := none }) hq (SeqStep.act_done_allReturn ha)).symm
  · rfl

theorem advances_keep_end {k : Nat} {s t : State} (h : advances k s = .next t) :
    State.resume { t with tpCredit := none } = State.resume { s with tpCredit := none } := by
  induction k generalizing s with
  | zero => cases h; rfl
  | succ k ih =>
    rw [advances] at h
    cases ha : s.advance with
    | next u =>
      rw [ha] at h
      rw [ih h, State.advance_keeps_end ha]
    | fault f => rw [ha] at h; cases h
    | refused r => rw [ha] at h; cases h

/-- No primitive step takes an event back from the trace. -/
theorem SeqStep.act_extends_trace {op : SeqStep} {s t : State} (h : op.act s = .done t) : s.trace <+: t.trace := by
  rcases SeqStep.act_done_cases h with ⟨n, _, rfl⟩ | ⟨m, _, rfl⟩ | ⟨r, d, v, _, _, rfl⟩ | ⟨b, rfl, _⟩ |
    ⟨f, _, rfl⟩ | ⟨_, _, rfl⟩ | ⟨e, _, _, _, _, rfl⟩ | ⟨_, rfl⟩ <;> simp

theorem State.resume_extends_trace {s t : State} (h : s.resume = .next t) : s.trace <+: t.trace :=
  runSteps_induct (P := fun u => s.trace <+: u.trace) (fun _ _ _ _ hu ha => hu.trans (SeqStep.act_extends_trace ha))
    (fun _ _ hu => hu) (s := { s with seq := [] }) List.prefix_rfl h

/-- Settles O43: the steps done leave the end of the run where it was, and from there the trace only grows. -/
theorem traceAfterStepsIsPrefix : Obligations.TraceAfterStepsIsPrefix := by
  intro k s t u hadv hend
  have hrest : State.resume { t with tpCredit := none } = .next u := (advances_keep_end hadv).trans hend
  exact State.resume_extends_trace (s := { t with tpCredit := none }) hrest

/-- Settles O44: the command that waits has done some of the advances of the one that does not, and those leave the end of
the run where it was. -/
theorem waitingThenResumingAgrees : Obligations.WaitingThenResumingAgrees := by
  intro i s t u c _ hq hwait hend
  have hc := exec_eq_advances i { s with tpCredit := c } hq
  have hnone := exec_eq_resume i { s with tpCredit := none } hq
  have hlist : stepList i { s with tpCredit := c } = stepList i { s with tpCredit := none } :=
    stepList_congr i rfl rfl rfl
  rw [advances_keep_end (hc.symm.trans hwait), hlist, ← hnone, hend]

/-! ### One step of the machine -/

/-- Settles O9: each case is what the step finds to do. -/
theorem stepRunsInstruction : Obligations.StepRunsInstruction := by
  refine ⟨fun s i w ws hr he hq hh hd => ?_, fun s i w hr he hd => ?_, fun s hr he hq => ?_, fun s hr he hq hh => ?_⟩
  · rw [step, State.fetch_command hr he hq hh, hd, ← State.takeCommand_eq hh]
  · rw [step, State.fetch_packet hr he, hd]
    rfl
  · rw [step, State.fetch_busy hr he hq]
    rfl
  · rw [step, State.fetch_idle hr he hq hh]
    rfl

end Sys2Proof.Machine
end

section
/-!
PROOFS. The decoders on words written out from the spec's encodings (30 R62 to R72).
-/

namespace Sys2Proof

open Machine

/-! ### The packet decoder on a configuration register's packet -/

/-- Well-formed parameters keep the configuration registers apart from the digit registers and from each other (00 R8). -/
theorem Config.configAddresses_of_wf {c : Config} (h : c.wf = true) :
    (∀ a ∈ c.configAddresses, isDigitAddress a = false) ∧ c.configAddresses.Nodup := by
  simp only [Config.wf, Bool.and_eq_true, decide_eq_true_eq, List.all_eq_true, Bool.not_eq_true'] at h
  obtain ⟨⟨_, hdigit⟩, hnodup⟩ := h
  exact ⟨hdigit, hnodup⟩

/-- A packet for no digit register is decoded by the configuration addresses alone (30 R72). -/
theorem decodePacket_of_not_digit (c : Config) {a : Byte} (v : Byte) (h : isDigitAddress a = false) :
    decodePacket c (mkPacket a v) =
      if a = c.regScanLimit then .instr (.scanLimit v)
      else if a = c.regDisplayTest then .instr (.displayTest v)
      else if a = c.regDecodeMode then .instr (.decodeMode v)
      else if a = c.regIntensity then .instr (.intensity v)
      else if a = c.regShutdown then .instr (.shutdown v)
      else .unknownPacketAddress a := by
  have hne : ∀ r : Byte, isDigitAddress r = true → a ≠ r := by
    rintro r hr rfl
    rw [h] at hr
    cases hr
  unfold decodePacket
  simp only [packetAddr_mkPacket, packetValue_mkPacket]
  rw [if_neg (hne 1#8 rfl), if_neg (hne 2#8 rfl), if_neg (hne 3#8 rfl), if_neg (hne 4#8 rfl), if_neg (hne 5#8 rfl),
    if_neg (hne 6#8 rfl), if_neg (hne 7#8 rfl), if_neg (hne 8#8 rfl)]

/-- The packet of each configuration register decodes to its row with its value, whatever the addresses are (30 R72). -/
theorem decodePacket_configRegisters {c : Config} (v : Byte) (h : c.wf = true) :
    decodePacket c (mkPacket c.regScanLimit v) = .instr (.scanLimit v) ∧
    decodePacket c (mkPacket c.regDisplayTest v) = .instr (.displayTest v) ∧
    decodePacket c (mkPacket c.regDecodeMode v) = .instr (.decodeMode v) ∧
    decodePacket c (mkPacket c.regIntensity v) = .instr (.intensity v) ∧
    decodePacket c (mkPacket c.regShutdown v) = .instr (.shutdown v) := by
  obtain ⟨hdigit, hnodup⟩ := Config.configAddresses_of_wf h
  simp only [Config.configAddresses, List.mem_cons, List.not_mem_nil, or_false, forall_eq_or_imp, forall_eq] at hdigit
  obtain ⟨hscan, htest, hmode, hintensity, hshutdown⟩ := hdigit
  rw [decodePacket_of_not_digit c v hscan, decodePacket_of_not_digit c v htest, decodePacket_of_not_digit c v hmode,
    decodePacket_of_not_digit c v hintensity, decodePacket_of_not_digit c v hshutdown]
  simp only [Config.configAddresses, List.nodup_cons, List.mem_cons, List.not_mem_nil, or_false, not_or] at hnodup
  obtain ⟨⟨h12, h13, h14, h15⟩, ⟨h23, h24, h25⟩, ⟨h34, h35⟩, h45, -⟩ := hnodup
  simp [Ne.symm h12, Ne.symm h13, Ne.symm h14, Ne.symm h15, Ne.symm h23, Ne.symm h24, Ne.symm h25, Ne.symm h34,
    Ne.symm h35, Ne.symm h45]

/-- Settles O1: the words with numbers are evaluated, the packets follow from the addresses being apart. -/
theorem specWordsDecode : Obligations.SpecWordsDecode :=
  ⟨by decide, by decide, by decide, by decide, by decide, by decide, by decide, by decide, by decide, by decide,
    by decide, fun _ => rfl, fun _ v h => decodePacket_configRegisters v h⟩

end Sys2Proof
end

section
/-!
PROOFS. The state family: the status outputs, the fault of a packet before `init_transfer`, the invariant every step keeps, and what
a step does to mode, N and rsp (10 R21 to R37).
-/

/- The proofs of this section are elaborated one after another (with no section variables the option has no other effect). The
tests above keep a thread waiting for each of their kernel evaluations, and proofs elaborated beside those can ask for more threads
than the memory limit of the check leaves room for. -/
set_option deprecated.oldSectionVars true

namespace Sys2Proof.Machine

/-! ## The status outputs and the packet that comes before `init_transfer` (10 R22, R30, R32, R37) -/

/-- Settles O60: each output bit and each mode code is read off. -/
theorem statusOutputs : Obligations.StatusOutputs := by
  intro s
  have hbits : s.faultBits.getLsbD 0 = s.fSeq ∧ s.faultBits.getLsbD 1 = s.fIllop ∧ s.faultBits.getLsbD 2 = s.fBadn := by
    rw [State.faultBits]
    cases s.fSeq <;> cases s.fIllop <;> cases s.fBadn <;> decide
  have hcode : (s.mode.code = 0#2 ↔ s.mode = .uninit) ∧ (s.mode.code = 1#2 ↔ s.mode = .config) ∧
      (s.mode.code = 2#2 ↔ s.mode = .oper) := by
    cases s.mode <;> decide
  obtain ⟨hseq, hillop, hbadn⟩ := hbits
  exact ⟨by simp [State.status, State.busy], rfl, hseq, hillop, hbadn, rfl, rfl, hcode⟩

/-- A packet's step list is two sends, whatever its register (43 R125). -/
theorem stepList_packet (i : Instr) (s : State) (h : i.isCommand = false) :
    ∃ a v, stepList i s = sendPacketSteps a v := by
  cases i with
  | init n => cases h
  | setPixel x y on => cases h
  | getPixel x y => cases h
  | togglePixel x y => cases h
  | clear => cases h
  | blit ox oy sprite => cases h
  | _ v => exact ⟨_, v, rfl⟩

/-- Settles O20: the first of the packet's two sends stops. -/
theorem packetBeforeInitFaults : Obligations.PacketBeforeInitFaults := by
  intro i s hi hr
  obtain ⟨a, v, hsteps⟩ := stepList_packet i s hi
  have hstop : (SeqStep.tpSend a).act s = .stop .transferBeforeInit := by
    simp [SeqStep.act, State.tpTraffic, hr]
  rw [exec_packet i s hi, hsteps, sendPacketSteps, runSteps, hstop]

/-! ## The step lists of the commands, kind by kind (10 R28, 41 R90 to R97, 43 R131, 44 R141, R145) -/

/-! ### The step lists of a command's body: sends, latches and writes of bytes that exist -/

theorem rowSyncSteps_inBody (n : Byte) (r : Fin 8) : (rowSyncSteps n r).all (SeqStep.inBody n) = true := by
  simp [rowSyncSteps, devicesDown, SeqStep.inBody, List.all_flatMap]

theorem cfgWriteSteps_inBody (n a v : Byte) : (cfgWriteSteps n a v).all (SeqStep.inBody n) = true := by
  simp [cfgWriteSteps, sendPacketSteps, SeqStep.inBody, List.all_flatMap]

theorem zeroSteps_zeroes (n : Byte) : (zeroSteps n).all (SeqStep.zeroes n) = true := by
  simp [zeroSteps, SeqStep.zeroes, List.all_flatMap]

theorem SeqStep.inBody_of_zeroes {n : Byte} {op : SeqStep} (h : op.zeroes n = true) : op.inBody n = true := by
  cases op with
  | fbZero r d => exact h
  | _ => cases h

theorem clearAllSteps_inBody (n : Byte) : (clearAllSteps n).all (SeqStep.inBody n) = true := by
  have hzero : (zeroSteps n).all (SeqStep.inBody n) = true :=
    List.all_eq_true.2 fun op hop => SeqStep.inBody_of_zeroes (List.all_eq_true.1 (zeroSteps_zeroes n) op hop)
  rw [clearAllSteps, List.all_append, List.all_flatMap, hzero, Bool.true_and, List.all_eq_true]
  exact fun r _ => rowSyncSteps_inBody n r

theorem setPixSteps_inBody (n : Byte) (x y : Int) (on : Bool) : (setPixSteps n x y on).all (SeqStep.inBody n) = true := by
  rw [setPixSteps]
  cases hl : locate n x y with
  | none => rfl
  | some p =>
    rw [List.all_cons, rowSyncSteps_inBody]
    simpa [SeqStep.inBody] using (locate_device_lt hl).1

theorem putPixSteps_inBody (n : Byte) (x y : Int) (on : Bool) : (putPixSteps n x y on).all (SeqStep.inBody n) = true := by
  rw [putPixSteps]
  cases hl : locate n x y with
  | none => rfl
  | some p => simpa [SeqStep.inBody] using (locate_device_lt hl).1

theorem togglePixSteps_inBody (n : Byte) (x y : Int) : (togglePixSteps n x y).all (SeqStep.inBody n) = true := by
  rw [togglePixSteps]
  cases hl : locate n x y with
  | none => rfl
  | some p =>
    rw [List.all_cons, rowSyncSteps_inBody]
    simpa [SeqStep.inBody] using (locate_device_lt hl).1

theorem blitEachSteps_inBody (n : Byte) (ox oy : Int) (sprite : Sprite) :
    (blitEachSteps n ox oy sprite).all (SeqStep.inBody n) = true := by
  rw [blitEachSteps, List.all_flatMap, List.all_eq_true]
  exact fun rc _ => setPixSteps_inBody n _ _ _

theorem blitBatchedSteps_inBody (n : Byte) (ox oy : Int) (sprite : Sprite) :
    (blitBatchedSteps n ox oy sprite).all (SeqStep.inBody n) = true := by
  rw [blitBatchedSteps, List.all_append, List.all_flatMap, List.all_flatMap, Bool.and_eq_true, List.all_eq_true,
    List.all_eq_true]
  exact ⟨fun rc _ => putPixSteps_inBody n _ _ _, fun r _ => rowSyncSteps_inBody n r⟩

/-! ### The step list of a legal INIT (43 R131) -/

/-- The calls of INIT between `init_transfer` and the change to OPER: the six items of the fixed sequence (43 R128). -/
def initBody (cfg : Config) (n : Byte) : List SeqStep :=
  cfgWriteSteps n cfg.regScanLimit cfg.valScanAll ++ cfgWriteSteps n cfg.regDisplayTest cfg.valTestOff ++
    cfgWriteSteps n cfg.regDecodeMode cfg.valDecodeRaw ++ clearAllSteps n ++
    cfgWriteSteps n cfg.regIntensity cfg.valIntensityMax ++ cfgWriteSteps n cfg.regShutdown cfg.valNormalOp

theorem initBody_inBody (cfg : Config) (n : Byte) : (initBody cfg n).all (SeqStep.inBody n) = true := by
  simp only [initBody, List.all_append, cfgWriteSteps_inBody, clearAllSteps_inBody, Bool.and_self]

theorem initSequence_eq (cfg : Config) (n : Byte) :
    initSequence cfg n =
      .writeN n :: zeroSteps n ++ ([.setMode .config, .tpInit] ++ initBody cfg n ++ [.setMode .oper]) := by
  simp only [initSequence, initBody, List.append_assoc, List.cons_append, List.nil_append]

/-- A legal count as the byte INIT writes to N: the same number, not 0 and within `N_MAX` (00 R6, 10 R21). -/
theorem toNat_of_legalCount {cfg : Config} {count : Nat} (h : legalCount cfg count = true) :
    (BitVec.ofNat 8 count).toNat = count ∧ 1 ≤ count ∧ count ≤ cfg.nMax.toNat := by
  obtain ⟨hpos, hmax⟩ : 1 ≤ count ∧ count ≤ cfg.nMax.toNat := by simpa [legalCount] using h
  have hbyte := cfg.nMax.isLt
  refine ⟨?_, hpos, hmax⟩
  rw [BitVec.toNat_ofNat]
  omega

/-! ### The step list of GET_PIXEL (41 R93, R94) -/

theorem getPixelSteps_ne_nil (s : State) (x y : Int) : getPixelSteps s x y ≠ [] := by
  rw [getPixelSteps, getPixSteps]
  cases locate s.n x y <;> split <;> simp

theorem orFinish_of_ne_nil {q : List SeqStep} (h : q ≠ []) : orFinish q = q := by
  cases q with
  | nil => exact absurd rfl h
  | cons op ops => rfl

/-- What GET_PIXEL loads: the response with the pixel's bit, 0 where there is none, and outside OPER the fault (41 R93, R94). -/
theorem getPixelSteps_cases (s : State) (x y : Int) :
    (∃ rest, getPixelSteps s x y = .respond false :: rest ∧ (decide (s.mode = .oper) && s.pixelOn x y) = false ∧
      (rest = [] ∨ rest = [.raise .seq])) ∨
    (∃ r d k, getPixelSteps s x y = [.respondPixel r d k] ∧ d < s.n.toNat ∧
      (decide (s.mode = .oper) && s.pixelOn x y) = (s.fbByte r d).getLsbD k.val) := by
  rw [getPixelSteps, getPixSteps, State.pixelOn]
  by_cases hm : s.mode = .oper
  · cases hl : locate s.n x y with
    | none => exact .inl ⟨[], by simp [hm], by simp, .inl rfl⟩
    | some p =>
      exact .inr ⟨p.row, p.device, p.bit, by simp [hm], (locate_device_lt hl).1, by simp [hm, State.bitAt]⟩
  · exact .inl ⟨[.raise .seq], by simp [hm], by simp [hm], .inr rfl⟩

theorem getPixelSteps_isReply (s : State) (x y : Int) : IsReply s.n (getPixelSteps s x y) := by
  rcases getPixelSteps_cases s x y with ⟨rest, hq, -, rfl | rfl⟩ | ⟨r, d, k, hq, hd, -⟩ <;> rw [hq]
  · exact .inl ⟨false, rfl⟩
  · exact .inr (.inr (.inr (.inl ⟨false, .seq, rfl⟩)))
  · exact .inr (.inl ⟨r, d, k, hd, rfl⟩)

/-! ### The steps that write N and those that respond -/

/-- A step of a command's body writes no N and responds to nothing. -/
theorem SeqStep.inBody_quiet {n : Byte} {op : SeqStep} (h : op.inBody n = true) :
    (∀ k, op ≠ .writeN k) ∧ op.responds = false := by
  cases op with
  | writeN k => cases h
  | respond b => cases h
  | respondPixel r d k => cases h
  | _ => exact ⟨nofun, rfl⟩

theorem IsInitTail.quiet {n : Byte} {q : List SeqStep} (h : IsInitTail n q) {op : SeqStep} (hmem : op ∈ q) :
    (∀ k, op ≠ .writeN k) ∧ op.responds = false := by
  obtain ⟨body, hbody, rfl⟩ := h
  simp only [List.mem_append, List.mem_cons, List.not_mem_nil, or_false] at hmem
  rcases hmem with ((rfl | rfl) | hop) | rfl
  · exact ⟨nofun, rfl⟩
  · exact ⟨nofun, rfl⟩
  · exact SeqStep.inBody_quiet (List.all_eq_true.1 hbody op hop)
  · exact ⟨nofun, rfl⟩

theorem mem_initSequence {cfg : Config} {n : Byte} {op : SeqStep} (h : op ∈ initSequence cfg n) :
    op = .writeN n ∨ (∀ k, op ≠ .writeN k) ∧ op.responds = false := by
  rw [initSequence_eq, List.cons_append, List.mem_cons, List.mem_append] at h
  rcases h with rfl | hzero | htail
  · exact .inl rfl
  · exact .inr (SeqStep.inBody_quiet (SeqStep.inBody_of_zeroes (List.all_eq_true.1 (zeroSteps_zeroes n) op hzero)))
  · exact .inr (IsInitTail.quiet ⟨_, initBody_inBody cfg n, rfl⟩ htail)

theorem getPixelSteps_mem {s : State} {x y : Int} {op : SeqStep} (h : op ∈ getPixelSteps s x y) :
    op.responds = true ∨ op = .raise .seq := by
  rcases getPixelSteps_cases s x y with ⟨rest, hq, -, rfl | rfl⟩ | ⟨r, d, k, hq, -, -⟩ <;> rw [hq] at h
  · obtain rfl : op = .respond false := by simpa using h
    exact .inl rfl
  · obtain rfl | rfl : op = .respond false ∨ op = .raise .seq := by simpa using h
    · exact .inl rfl
    · exact .inr rfl
  · obtain rfl : op = .respondPixel r d k := by simpa using h
    exact .inl rfl

/-- A command word is decoded to a command or a reserved opcode, never to a packet (30 R67, R69). -/
theorem decodeCommand_isCommand {w : CommandWord} {i : Instr} (h : decodeCommand w = .instr i) : i.isCommand = true := by
  unfold decodeCommand at h
  split at h <;> cases h <;> rfl

/-! ## What one primitive step, and a run of them, does to the memories, the registers and the response -/

/-! ### Memories -/

/-- A store to a byte within `N_MAX` keeps FB canonical and within its bytes (10 R23). -/
theorem State.FbInv.fbStore {s : State} (h : s.FbInv) {r : Fin 8} {d : Nat} (v : Byte) (hd : d < s.cfg.nMax.toNat) :
    (s.fbStore r d v).FbInv := by
  obtain ⟨hwf, hcells⟩ := h
  refine ⟨memWf_memWrite _ _ hwf, fun c hc => ?_⟩
  rcases mem_memWrite hc with ⟨rfl, _⟩ | hold
  · have hbyte := s.cfg.nMax.isLt
    have hrow := r.isLt
    simp only [fbAddr, State.fbStore_cfg]
    omega
  · exact hcells c hold

/-- A chip's register file is canonical and lists only its thirteen registers: what `ChipsInv` asks of each chip. -/
def Chip.RegInv (cfg : Config) (chip : Chip) : Prop :=
  memWf chip.reg = true ∧ ∀ c ∈ chip.reg, c.1 < 256 ∧ isChipRegister cfg (BitVec.ofNat 8 c.1) = true

theorem State.chipsInv_iff (s : State) : s.ChipsInv ↔ ∀ chip ∈ s.chips, chip.RegInv s.cfg := Iff.rfl

/-- A latch writes only a register the chip has (42 R117). -/
theorem Chip.RegInv.latch {cfg : Config} {chip : Chip} (h : chip.RegInv cfg) : (chip.latch cfg).RegInv cfg := by
  obtain ⟨hwf, hcells⟩ := h
  rw [Chip.RegInv, chip_latch_reg]
  split
  · rename_i hreg
    refine ⟨memWf_memWrite _ _ hwf, fun c hc => ?_⟩
    rcases mem_memWrite hc with ⟨rfl, _⟩ | hold
    · exact ⟨(packetAddr chip.sr).isLt, by simpa using hreg⟩
    · exact hcells c hold
  · exact ⟨hwf, hcells⟩

/-- No call gives a chip a register it does not have. -/
theorem wire_regInv {cfg : Config} {cs : List Chip} (h : ∀ chip ∈ cs, chip.RegInv cfg) (e : Event) :
    ∀ chip ∈ wire cfg cs e, chip.RegInv cfg := by
  cases e with
  | init => exact h
  | send b =>
    intro chip hchip
    have hmem : chip.reg ∈ cs.map Chip.reg := shiftIn_map_reg b cs ▸ List.mem_map_of_mem hchip
    obtain ⟨old, hold, hreg⟩ := List.mem_map.1 hmem
    have hinv := h old hold
    rwa [Chip.RegInv, hreg] at hinv
  | latch =>
    intro chip hchip
    obtain ⟨old, hold, rfl⟩ := List.mem_map.1 hchip
    exact (h old hold).latch

theorem State.chipsInv_afterReset {s : State} (h : s.ChipsInv) : s.afterReset.ChipsInv := by
  rw [State.chipsInv_iff, State.afterReset_chips, State.chipsAfterReset]
  split
  · split
    · exact wire_regInv h _
    · exact h
  · exact h

/-- Every primitive step keeps the memories' part of the invariant, N being within `N_MAX`. -/
theorem SeqStep.act_keeps_memories {op : SeqStep} {s t : State} (hfb : s.FbInv) (hchips : s.ChipsInv)
    (hn : s.n.toNat ≤ s.cfg.nMax.toNat) (h : op.act s = .done t) : t.FbInv ∧ t.ChipsInv := by
  rcases SeqStep.act_done_cases h with ⟨n, _, rfl⟩ | ⟨m, _, rfl⟩ | ⟨r, d, v, hd, _, rfl⟩ | ⟨b, rfl, _⟩ |
    ⟨f, _, rfl⟩ | ⟨_, _, rfl⟩ | ⟨e, _, _, _, _, rfl⟩ | ⟨_, rfl⟩
  · exact ⟨hfb, hchips⟩
  · exact ⟨hfb, hchips⟩
  · exact ⟨hfb.fbStore v (by omega), hchips⟩
  · exact ⟨hfb, hchips⟩
  · cases f <;> exact ⟨hfb, hchips⟩
  · exact ⟨hfb, hchips⟩
  · exact ⟨hfb, wire_regInv hchips e⟩
  · exact ⟨hfb, hchips⟩

/-! ### What one primitive step does to the registers of the block -/

theorem SeqStep.act_n {op : SeqStep} {s t : State} (h : op.act s = .done t) : t.n = s.n ∨ op = .writeN t.n := by
  rcases SeqStep.act_done_cases h with ⟨n, rfl, rfl⟩ | ⟨m, _, rfl⟩ | ⟨r, d, v, _, _, rfl⟩ | ⟨b, rfl, _⟩ |
    ⟨f, _, rfl⟩ | ⟨_, _, rfl⟩ | ⟨e, _, _, _, _, rfl⟩ | ⟨_, rfl⟩ <;> simp

theorem SeqStep.act_mode {op : SeqStep} {s t : State} (h : op.act s = .done t) :
    t.mode = s.mode ∨ op = .setMode t.mode := by
  rcases SeqStep.act_done_cases h with ⟨n, _, rfl⟩ | ⟨m, rfl, rfl⟩ | ⟨r, d, v, _, _, rfl⟩ | ⟨b, rfl, _⟩ |
    ⟨f, _, rfl⟩ | ⟨_, _, rfl⟩ | ⟨e, _, _, _, _, rfl⟩ | ⟨_, rfl⟩ <;> simp

theorem SeqStep.act_tpReady {op : SeqStep} {s t : State} (h : op.act s = .done t) :
    t.tpReady = s.tpReady ∨ op = .tpInit := by
  rcases SeqStep.act_done_cases h with ⟨n, _, rfl⟩ | ⟨m, _, rfl⟩ | ⟨r, d, v, _, _, rfl⟩ | ⟨b, rfl, _⟩ |
    ⟨f, _, rfl⟩ | ⟨rfl, _, rfl⟩ | ⟨e, _, _, _, _, rfl⟩ | ⟨_, rfl⟩ <;> simp

/-- A step that is no `N <- n`, `mode <- m` or `init_transfer` leaves N, mode and the transport as they were. -/
theorem SeqStep.act_keeps_control {op : SeqStep} {s t : State} (h : op.act s = .done t) (hn : ∀ k, op ≠ .writeN k)
    (hm : ∀ m, op ≠ .setMode m) (hi : op ≠ .tpInit) : t.n = s.n ∧ t.mode = s.mode ∧ t.tpReady = s.tpReady :=
  ⟨(SeqStep.act_n h).resolve_right (hn _), (SeqStep.act_mode h).resolve_right (hm _),
    (SeqStep.act_tpReady h).resolve_right hi⟩

theorem SeqStep.act_inBody_keeps_control {op : SeqStep} {s t : State} (h : op.act s = .done t) {n : Byte}
    (hop : op.inBody n = true) : t.n = s.n ∧ t.mode = s.mode ∧ t.tpReady = s.tpReady :=
  SeqStep.act_keeps_control h (by rintro k rfl; cases hop) (by rintro m rfl; cases hop) (by rintro rfl; cases hop)

/-! ### The response (10 R33) -/

theorem SeqStep.act_respondPixel {s : State} {d : Nat} (h : d < s.n.toNat) (r : Fin 8) (k : Fin 8) :
    (SeqStep.respondPixel r d k).act s = .done (s.respond ((s.fbByte r d).getLsbD k.val)) := by
  rw [SeqStep.act, if_pos (by simpa [State.fbExists] using h)]

/-- A step that does not respond leaves the response and its pulse. -/
theorem SeqStep.act_keeps_response {op : SeqStep} {s t : State} (h : op.act s = .done t) (hop : op.responds = false) :
    t.rsp = s.rsp ∧ t.rspValid = s.rspValid := by
  have hstore {r : Fin 8} {d : Nat} {f : Byte → Byte} (h : s.fbModify r d f = .done t) :
      t.rsp = s.rsp ∧ t.rspValid = s.rspValid := by
    obtain ⟨-, rfl⟩ := State.fbModify_done h
    exact ⟨rfl, rfl⟩
  have hcall {e : Event} (h : s.tpTraffic e = .done t) : t.rsp = s.rsp ∧ t.rspValid = s.rspValid := by
    obtain ⟨-, -, rfl⟩ := State.tpTraffic_done h
    exact ⟨rfl, rfl⟩
  cases op with
  | writeN k => cases h; exact ⟨rfl, rfl⟩
  | setMode m => cases h; exact ⟨rfl, rfl⟩
  | fbZero r d => exact hstore (f := fun _ => 0#8) h
  | fbPut r d k on => exact hstore h
  | fbFlip r d k => exact hstore h
  | respond b => cases hop
  | respondPixel r d k => cases hop
  | raise f => cases h; exact ⟨s.raise_rsp f, s.raise_rspValid f⟩
  | tpInit =>
    obtain ⟨-, rfl⟩ := State.tpInit_done h
    exact ⟨rfl, rfl⟩
  | tpSend b => exact hcall h
  | tpSendFb r d =>
    rw [SeqStep.act] at h
    split at h
    · exact hcall h
    · cases h
  | tpLatch => exact hcall h
  | finish => cases h; exact ⟨rfl, rfl⟩

/-! ### No step of the block stops -/

theorem State.tpCall_ne_stop (s : State) (e : Event) (f : Fault) : s.tpCall e ≠ .stop f := by
  rw [State.tpCall]
  split <;> simp

theorem State.tpTraffic_ne_stop {s : State} (h : s.tpReady = true) (e : Event) (f : Fault) : s.tpTraffic e ≠ .stop f := by
  rw [State.tpTraffic, if_pos h]
  exact s.tpCall_ne_stop e f

theorem State.tpInit_ne_stop (s : State) (f : Fault) : s.tpInit ≠ .stop f := by
  rw [State.tpInit]
  cases hc : s.tpCall .init with
  | done t => simp
  | wait => simp
  | stop g => exact absurd hc (s.tpCall_ne_stop .init g)

theorem State.fbModify_ne_stop {s : State} {d : Nat} (h : d < s.n.toNat) (r : Fin 8) (g : Byte → Byte) (f : Fault) :
    s.fbModify r d g ≠ .stop f := by
  simp [State.fbModify_of_lt g h]

/-- An FB access to a byte that exists, and with the transport set up a send or a latch, is done or waits. -/
theorem SeqStep.act_inBody_ne_stop {op : SeqStep} {s : State} (hop : op.inBody s.n = true)
    (hr : s.tpReady = true ∨ op.zeroes s.n = true) (f : Fault) : op.act s ≠ .stop f := by
  cases op with
  | fbZero r d => exact State.fbModify_ne_stop (by simpa [SeqStep.inBody] using hop) r (fun _ => 0#8) f
  | fbPut r d k on => exact State.fbModify_ne_stop (by simpa [SeqStep.inBody] using hop) r _ f
  | fbFlip r d k => exact State.fbModify_ne_stop (by simpa [SeqStep.inBody] using hop) r _ f
  | tpSend b => exact State.tpTraffic_ne_stop (hr.resolve_right (by simp [SeqStep.zeroes])) _ f
  | tpSendFb r d =>
    rw [SeqStep.act, if_pos (by exact hop)]
    exact State.tpTraffic_ne_stop (hr.resolve_right (by simp [SeqStep.zeroes])) _ f
  | tpLatch => exact State.tpTraffic_ne_stop (hr.resolve_right (by simp [SeqStep.zeroes])) _ f
  | _ => cases hop

theorem SeqStep.act_withSeq_ne_stop {op : SeqStep} {s : State} {f : Fault} (h : op.act s ≠ .stop f) (q : List SeqStep) :
    op.act { s with seq := q } ≠ .stop f := by
  rw [SeqStep.act_withSeq]
  cases ha : op.act s with
  | stop g => simpa [StepResult.mapDone, ha] using h
  | done t => simp [StepResult.mapDone]
  | wait => simp [StepResult.mapDone]

/-! ### Runs -/

theorem State.advance_suffix {s t : State} (h : s.advance = .next t) : t.seq <:+ s.seq := by
  rcases State.advance_next_cases h with ⟨-, rfl⟩ | ⟨op, rest, hq, -, rfl⟩ | ⟨op, rest, -, -, rfl⟩
  · exact List.suffix_rfl
  · exact hq ▸ List.suffix_cons op t.seq
  · exact List.suffix_rfl

/-- The induction over the rest of a command, packaged once: what every advance keeps, doing a step that was left at the start,
holds where the block stops or waits. -/
theorem State.resume_induct {P : State → Prop} {u t : State}
    (hstep : ∀ v w, v.seq <:+ u.seq → P v → v.advance = .next w → P w) (hu : P u) (h : u.resume = .next t) : P t := by
  have key (k : Nat) : ∀ v, v.seq <:+ u.seq → P v → advances k v = .next t → P t := by
    induction k with
    | zero =>
      intro v _ hv h
      cases h
      exact hv
    | succ k ih =>
      intro v hsuffix hv h
      rw [advances] at h
      cases ha : v.advance with
      | next w =>
        rw [ha] at h
        exact ih w ((State.advance_suffix ha).trans hsuffix) (hstep v w hsuffix hv ha) h
      | fault f => rw [ha] at h; cases h
      | refused r => rw [ha] at h; cases h
  exact key u.seq.length u List.suffix_rfl hu (u.resume_eq_advances ▸ h)

theorem State.resume_keeps_response {u t : State} (hquiet : ∀ op ∈ u.seq, op.responds = false)
    (h : u.resume = .next t) : t.rsp = u.rsp ∧ t.rspValid = u.rspValid := by
  refine State.resume_induct (P := fun v => v.rsp = u.rsp ∧ v.rspValid = u.rspValid) ?_ ⟨rfl, rfl⟩ h
  rintro v w hsuffix ⟨hrsp, hvalid⟩ hadv
  rcases State.advance_next_cases hadv with ⟨-, rfl⟩ | ⟨op, rest, hq, ha, -⟩ | ⟨op, rest, -, -, rfl⟩
  · exact ⟨hrsp, hvalid⟩
  · have hop : op ∈ u.seq := hsuffix.subset (hq ▸ List.mem_cons_self)
    obtain ⟨hrsp', hvalid'⟩ := SeqStep.act_keeps_response ha (hquiet op hop)
    exact ⟨hrsp'.trans hrsp, hvalid'.trans hvalid⟩
  · exact ⟨hrsp, hvalid⟩

/-!
## The invariant (10 R21, R22, R23)
What the sequencer stands at in each mode, what the acceptance of a command puts before it, and that every small step, and so every
step, leads to a next state of the invariant.
-/

/-! ### The invariant in each mode -/

theorem State.inv_uninit_iff {s : State} (hm : s.mode = .uninit) :
    s.Inv ↔ s.FbInv ∧ s.ChipsInv ∧ s.n.toNat ≤ s.cfg.nMax.toNat ∧ s.tpReady = false ∧
      (s.n = 0#8 ∧ (s.seq = [] ∨ IsReply s.n s.seq) ∨ s.InitPending) ∧ s.enc = none := by
  simp [State.Inv, State.SeqInv, hm]

theorem State.inv_config_iff {s : State} (hm : s.mode = .config) :
    s.Inv ↔ s.FbInv ∧ s.ChipsInv ∧ s.n.toNat ≤ s.cfg.nMax.toNat ∧ s.n ≠ 0#8 ∧
      (∃ body : List SeqStep, body.all (SeqStep.inBody s.n) = true ∧
        s.seq = (if s.tpReady then [] else [.tpInit]) ++ body ++ [.setMode .oper]) ∧ s.enc = none := by
  simp [State.Inv, State.SeqInv, hm]

theorem State.inv_oper_iff {s : State} (hm : s.mode = .oper) :
    s.Inv ↔ s.FbInv ∧ s.ChipsInv ∧ s.n.toNat ≤ s.cfg.nMax.toNat ∧ s.n ≠ 0#8 ∧ s.tpReady = true ∧
      (s.seq.all (SeqStep.inBody s.n) = true ∨ IsReply s.n s.seq) ∧ s.enc = none := by
  simp [State.Inv, State.SeqInv, hm]

/-! ### What the sequencer stands at -/

/-- The step a busy block of the invariant stands at and the steps after it, in each mode: an accepted INIT from its `N <- k` to
its `mode <- OPER`, a step of a command's body, or a reply. -/
inductive State.Todo (s : State) : SeqStep → List SeqStep → Prop
  | writeN {k : Byte} {zeros tail : List SeqStep} (hm : s.mode = .uninit) (hn : s.n = 0#8) (hk : k ≠ 0#8)
      (hmax : k.toNat ≤ s.cfg.nMax.toNat) (hzeros : zeros.all (SeqStep.zeroes k) = true) (htail : IsInitTail k tail) :
      s.Todo (.writeN k) (zeros ++ tail)
  | zero {op : SeqStep} {zeros tail : List SeqStep} (hm : s.mode = .uninit) (hn : s.n ≠ 0#8)
      (hop : op.zeroes s.n = true) (hzeros : zeros.all (SeqStep.zeroes s.n) = true) (htail : IsInitTail s.n tail) :
      s.Todo op (zeros ++ tail)
  | enterConfig {body : List SeqStep} (hm : s.mode = .uninit) (hn : s.n ≠ 0#8) (hr : s.tpReady = false)
      (hbody : body.all (SeqStep.inBody s.n) = true) : s.Todo (.setMode .config) (.tpInit :: body ++ [.setMode .oper])
  | initTransfer {body : List SeqStep} (hm : s.mode = .config) (hbody : body.all (SeqStep.inBody s.n) = true) :
      s.Todo .tpInit (body ++ [.setMode .oper])
  | configBody {op : SeqStep} {body : List SeqStep} (hm : s.mode = .config) (hr : s.tpReady = true)
      (hop : op.inBody s.n = true) (hbody : body.all (SeqStep.inBody s.n) = true) : s.Todo op (body ++ [.setMode .oper])
  | enterOper (hm : s.mode = .config) (hr : s.tpReady = true) : s.Todo (.setMode .oper) []
  | operBody {op : SeqStep} {rest : List SeqStep} (hm : s.mode = .oper) (hr : s.tpReady = true)
      (hop : op.inBody s.n = true) (hrest : rest.all (SeqStep.inBody s.n) = true) : s.Todo op rest
  | reply {op : SeqStep} {rest : List SeqStep} (hm : s.mode = .uninit ∧ s.n = 0#8 ∨ s.mode = .oper)
      (hq : IsReply s.n (op :: rest)) : s.Todo op rest

theorem IsInitTail.todo {s : State} {op : SeqStep} {rest : List SeqStep} (h : IsInitTail s.n (op :: rest))
    (hm : s.mode = .uninit) (hn : s.n ≠ 0#8) (hr : s.tpReady = false) : s.Todo op rest := by
  obtain ⟨body, hbody, hq⟩ := h
  obtain ⟨rfl, rfl⟩ := List.cons.inj hq
  exact .enterConfig hm hn hr hbody

theorem State.InitPending.todo {s : State} (h : s.InitPending) (hm : s.mode = .uninit) (hr : s.tpReady = false)
    {op : SeqStep} {rest : List SeqStep} (hq : s.seq = op :: rest) : s.Todo op rest := by
  obtain ⟨k, zeros, tail, hk, hmax, hzeros, htail, ⟨hn, hseq⟩ | ⟨rfl, hseq⟩⟩ := h
  · obtain ⟨rfl, rfl⟩ := List.cons.inj (hq.symm.trans hseq)
    exact .writeN hm hn hk hmax hzeros htail
  · rw [hq] at hseq
    cases zeros with
    | nil => exact IsInitTail.todo (hseq ▸ htail) hm hk hr
    | cons z zs =>
      obtain ⟨rfl, rfl⟩ := List.cons.inj hseq
      obtain ⟨hz, hzs⟩ : op.zeroes s.n = true ∧ zs.all (SeqStep.zeroes s.n) = true := by simpa using hzeros
      exact .zero hm hk hz hzs htail

theorem State.Inv.todo {s : State} (h : s.Inv) {op : SeqStep} {rest : List SeqStep} (hq : s.seq = op :: rest) :
    s.Todo op rest := by
  cases hm : s.mode with
  | uninit =>
    obtain ⟨-, -, -, hr, ⟨hn, hidle | hreply⟩ | hpending, -⟩ := (State.inv_uninit_iff hm).1 h
    · rw [hq] at hidle
      cases hidle
    · exact .reply (.inl ⟨hm, hn⟩) (hq ▸ hreply)
    · exact hpending.todo hm hr hq
  | config =>
    obtain ⟨-, -, -, -, ⟨body, hbody, hseq⟩, -⟩ := (State.inv_config_iff hm).1 h
    rw [hq] at hseq
    cases hr : s.tpReady with
    | false =>
      obtain ⟨rfl, rfl⟩ := List.cons.inj (by simpa [hr] using hseq : op :: rest = .tpInit :: (body ++ [.setMode .oper]))
      exact .initTransfer hm hbody
    | true =>
      cases body with
      | nil =>
        obtain ⟨rfl, rfl⟩ := List.cons.inj (by simpa [hr] using hseq : op :: rest = [.setMode .oper])
        exact .enterOper hm hr
      | cons b bs =>
        obtain ⟨rfl, rfl⟩ := List.cons.inj (by simpa [hr] using hseq : op :: rest = b :: (bs ++ [.setMode .oper]))
        obtain ⟨hb, hbs⟩ : op.inBody s.n = true ∧ bs.all (SeqStep.inBody s.n) = true := by simpa using hbody
        exact .configBody hm hr hb hbs
  | oper =>
    obtain ⟨-, -, -, -, hr, hbody | hreply, -⟩ := (State.inv_oper_iff hm).1 h
    · obtain ⟨hop, hrest⟩ : op.inBody s.n = true ∧ rest.all (SeqStep.inBody s.n) = true := by simpa [hq] using hbody
      exact .operBody hm hr hop hrest
    · exact .reply (.inr hm) (hq ▸ hreply)

/-- The steps of a reply write no N and no mode and call nothing, none of them stops, and what is left is a reply or nothing. -/
theorem IsReply.head {n : Byte} {op : SeqStep} {rest : List SeqStep} (h : IsReply n (op :: rest)) :
    (∀ k, op ≠ .writeN k) ∧ (∀ m, op ≠ .setMode m) ∧ op ≠ .tpInit ∧
      (∀ s : State, s.n = n → ∀ f, op.act s ≠ .stop f) ∧ (rest = [] ∨ ∃ f, rest = [.raise f]) := by
  rcases h with ⟨b, hq⟩ | ⟨r, d, k, hd, hq⟩ | ⟨f, hq⟩ | ⟨b, f, hq⟩ | hq <;> obtain ⟨rfl, rfl⟩ := List.cons.inj hq
  · simp [SeqStep.act]
  · refine ⟨by simp, by simp, by simp, ?_, .inl rfl⟩
    rintro s rfl f
    simp [SeqStep.act, State.fbExists, hd]
  · simp [SeqStep.act]
  · simp [SeqStep.act]
  · simp [SeqStep.act]

/-- The step a block of the invariant stands at is done or waits. -/
theorem State.Todo.act_ne_stop {s : State} {op : SeqStep} {rest : List SeqStep} (h : s.Todo op rest) (f : Fault) :
    op.act s ≠ .stop f := by
  cases h with
  | writeN | enterConfig | enterOper => simp [SeqStep.act]
  | zero hm hn hop => exact SeqStep.act_inBody_ne_stop (SeqStep.inBody_of_zeroes hop) (.inr hop) f
  | initTransfer => exact s.tpInit_ne_stop f
  | configBody hm hr hop => exact SeqStep.act_inBody_ne_stop hop (.inl hr) f
  | operBody hm hr hop => exact SeqStep.act_inBody_ne_stop hop (.inl hr) f
  | reply hm hq =>
    obtain ⟨-, -, -, hact, -⟩ := hq.head
    exact hact s rfl f

/-! ### Every small step keeps the invariant -/

/-- Doing the step a block of the invariant stands at leads to a state of it. -/
theorem State.Todo.keeps_inv {s t : State} {op : SeqStep} {rest : List SeqStep} (h : s.Todo op rest) (hs : s.Inv)
    (ha : op.act { s with seq := rest } = .done t) : t.Inv := by
  have ⟨hfb, hchips, hmax, _, _, hnotReady, _, henc⟩ := hs
  obtain ⟨hcfg', hseq', -, -, henc', -⟩ := SeqStep.act_frame ha
  obtain ⟨hfb', hchips'⟩ := SeqStep.act_keeps_memories (s := { s with seq := rest }) hfb hchips hmax ha
  replace hseq' : t.seq = rest := hseq'
  replace henc' : t.enc = none := henc'.trans henc
  have hmax' : s.n.toNat ≤ t.cfg.nMax.toNat := hcfg' ▸ hmax
  cases h with
  | @writeN k zeros tail hm hn hk hkmax hzeros htail =>
    cases ha
    exact (State.inv_uninit_iff (s := { s with n := k, seq := zeros ++ tail }) hm).2
      ⟨hfb', hchips', hkmax, hnotReady hm, .inr ⟨k, zeros, tail, hk, hkmax, hzeros, htail, .inr ⟨rfl, rfl⟩⟩, henc⟩
  | zero hm hn hop hzeros htail =>
    obtain ⟨hn', hm', hr'⟩ := SeqStep.act_inBody_keeps_control ha (SeqStep.inBody_of_zeroes hop)
    exact (State.inv_uninit_iff (hm'.trans hm)).2
      ⟨hfb', hchips', hn' ▸ hmax', hr'.trans (hnotReady hm),
        .inr ⟨s.n, _, _, hn, hmax', hzeros, htail, .inr ⟨hn', hseq'⟩⟩, henc'⟩
  | enterConfig hm hn hr hbody =>
    cases ha
    exact (State.inv_config_iff rfl).2 ⟨hfb', hchips', hmax, hn, ⟨_, hbody, by simp [hr]⟩, henc⟩
  | initTransfer hm hbody =>
    obtain ⟨-, -, -, hn, -, -⟩ := (State.inv_config_iff hm).1 hs
    have hcontrol : t.n = s.n ∧ t.mode = s.mode ∧ t.tpReady = true := by
      obtain ⟨-, rfl⟩ := State.tpInit_done ha
      exact ⟨rfl, rfl, rfl⟩
    obtain ⟨hn', hm', hr'⟩ := hcontrol
    exact (State.inv_config_iff (hm'.trans hm)).2
      ⟨hfb', hchips', hn' ▸ hmax', hn' ▸ hn, ⟨_, hn' ▸ hbody, by simp [hseq', hr']⟩, henc'⟩
  | configBody hm hr hop hbody =>
    obtain ⟨-, -, -, hn, -, -⟩ := (State.inv_config_iff hm).1 hs
    obtain ⟨hn', hm', hr'⟩ := SeqStep.act_inBody_keeps_control ha hop
    exact (State.inv_config_iff (hm'.trans hm)).2
      ⟨hfb', hchips', hn' ▸ hmax', hn' ▸ hn, ⟨_, hn' ▸ hbody, by simp [hseq', hr', hr]⟩, henc'⟩
  | enterOper hm hr =>
    obtain ⟨-, -, -, hn, -, -⟩ := (State.inv_config_iff hm).1 hs
    cases ha
    exact (State.inv_oper_iff rfl).2 ⟨hfb', hchips', hmax, hn, hr, .inl rfl, henc⟩
  | operBody hm hr hop hrest =>
    obtain ⟨-, -, -, hn, -, -, -⟩ := (State.inv_oper_iff hm).1 hs
    obtain ⟨hn', hm', hr'⟩ := SeqStep.act_inBody_keeps_control ha hop
    exact (State.inv_oper_iff (hm'.trans hm)).2
      ⟨hfb', hchips', hn' ▸ hmax', hn' ▸ hn, hr'.trans hr, .inl (by rwa [hn', hseq']), henc'⟩
  | reply hm hq =>
    obtain ⟨hnoN, hnoMode, hnoInit, -, hrest⟩ := hq.head
    obtain ⟨hn', hm', hr'⟩ := SeqStep.act_keeps_control ha hnoN hnoMode hnoInit
    have hleft : t.seq = [] ∨ IsReply t.n t.seq := by
      rw [hseq']
      exact hrest.imp_right fun ⟨f, hf⟩ => .inr (.inr (.inl ⟨f, hf⟩))
    rcases hm with ⟨hm, hn⟩ | hm
    · exact (State.inv_uninit_iff (hm'.trans hm)).2
        ⟨hfb', hchips', hn' ▸ hmax', hr'.trans (hnotReady hm), .inl ⟨hn'.trans hn, hleft⟩, henc'⟩
    · obtain ⟨-, -, -, hn, hr, -, -⟩ := (State.inv_oper_iff hm).1 hs
      exact (State.inv_oper_iff (hm'.trans hm)).2
        ⟨hfb', hchips', hn' ▸ hmax', hn' ▸ hn, hr'.trans hr, hleft.imp_left fun hnil => by rw [hnil]; rfl, henc'⟩

/-- Everything an advance of a block of the invariant can do: nothing, or the step it stands at. -/
theorem State.Inv.advance_cases {s t : State} (hs : s.Inv) (h : s.advance = .next t) :
    t = s ∨ ∃ op rest, s.seq = op :: rest ∧ s.Todo op rest ∧ op.act { s with seq := rest } = .done t ∧ t.seq = rest := by
  rcases State.advance_next_cases h with ⟨-, rfl⟩ | ⟨op, rest, hq, ha, ht⟩ | ⟨op, rest, -, -, rfl⟩
  · exact .inl rfl
  · exact .inr ⟨op, rest, hq, hs.todo hq, ha, ht⟩
  · exact .inl rfl

theorem State.Inv.of_advance {s t : State} (hs : s.Inv) (h : s.advance = .next t) : t.Inv := by
  rcases hs.advance_cases h with rfl | ⟨op, rest, -, htodo, ha, -⟩
  · exact hs
  · exact htodo.keeps_inv hs ha

theorem State.Inv.advance_next {s : State} (hs : s.Inv) : ∃ t, s.advance = .next t := by
  rw [State.advance]
  split
  · exact ⟨s, rfl⟩
  · rename_i op rest hq
    cases ha : op.act { s with seq := rest } with
    | done t => exact ⟨t, rfl⟩
    | wait => exact ⟨s, rfl⟩
    | stop f => exact absurd ha (SeqStep.act_withSeq_ne_stop ((hs.todo hq).act_ne_stop f) rest)

theorem State.Inv.advances_next {s : State} (hs : s.Inv) (k : Nat) : ∃ t, advances k s = .next t ∧ t.Inv := by
  induction k generalizing s with
  | zero => exact ⟨s, rfl, hs⟩
  | succ k ih =>
    obtain ⟨u, hu⟩ := hs.advance_next
    rw [advances_one_more hu]
    exact ih (hs.of_advance hu)

theorem State.Inv.resume_next {s : State} (hs : s.Inv) : ∃ t, s.resume = .next t ∧ t.Inv := by
  rw [State.resume_eq_advances]
  exact hs.advances_next _

/-! ### What a command word loads -/

/-- What can be put before the sequencer of an idle block when a word is accepted: the sequence of a legal INIT in UNINIT, the
response of GET_PIXEL, sends, latches and writes in OPER, one fault, or an end. -/
inductive State.Loads (s : State) : Decoded → List SeqStep → Prop
  | init {count : Nat} (hm : s.mode = .uninit) (hl : legalCount s.cfg count = true) :
      s.Loads (.instr (.init count)) (initSequence s.cfg (BitVec.ofNat 8 count))
  | response {x y : Int} : s.Loads (.instr (.getPixel x y)) (getPixelSteps s x y)
  | body {d : Decoded} {q : List SeqStep} (hm : s.mode = .oper) (hq : q.all (SeqStep.inBody s.n) = true) : s.Loads d q
  | fault {d : Decoded} {f : FaultFlag} : s.Loads d [.raise f]
  | finish {d : Decoded} : s.Loads d [.finish]

/-- A command that needs OPER loads its steps there, or the end if it has none, and elsewhere a fault (41 R90). -/
theorem State.loads_operSteps (s : State) (d : Decoded) {q : List SeqStep} (hq : q.all (SeqStep.inBody s.n) = true) :
    s.Loads d (orFinish (operSteps s q)) := by
  rw [operSteps]
  split
  · cases q with
    | nil => exact .finish
    | cons op ops => exact .body ‹_› hq
  · exact .fault

theorem State.loads_initSteps (s : State) (count : Nat) :
    s.Loads (.instr (.init count)) (orFinish (initSteps s count)) := by
  rw [initSteps]
  split
  · exact .fault
  · split
    · exact .init (not_not.1 ‹_›) ‹_›
    · exact .fault

theorem State.loads_commandSteps_instr (s : State) {i : Instr} (h : i.isCommand = true) :
    s.Loads (.instr i) (commandSteps (.instr i) s) := by
  cases i with
  | init count => exact s.loads_initSteps count
  | setPixel x y on => exact s.loads_operSteps _ (setPixSteps_inBody s.n x y on)
  | getPixel x y =>
    rw [commandSteps, stepList, orFinish_of_ne_nil (getPixelSteps_ne_nil s x y)]
    exact .response
  | togglePixel x y => exact s.loads_operSteps _ (togglePixSteps_inBody s.n x y)
  | clear => exact s.loads_operSteps _ (clearAllSteps_inBody s.n)
  | blit ox oy sprite =>
    refine s.loads_operSteps _ ?_
    split
    · exact blitBatchedSteps_inBody s.n ox oy sprite
    · exact blitEachSteps_inBody s.n ox oy sprite
  | _ v => cases h

/-- Everything the acceptance of a command word can put before the sequencer. -/
theorem State.loads_commandSteps (s : State) (w : CommandWord) :
    s.Loads (decodeCommand w) (commandSteps (decodeCommand w) s) := by
  cases hd : decodeCommand w with
  | instr i => exact s.loads_commandSteps_instr (decodeCommand_isCommand hd)
  | reservedOpcode op => exact .fault
  | unknownPacketAddress a => exact .fault

/-! ### Acceptance, idling and reset keep the invariant -/

/-- An idle block of the invariant is in UNINIT with `N = 0` or in OPER: CONFIG has INIT in progress (10 R22). -/
theorem State.Inv.idle_mode {s : State} (hs : s.Inv) (hq : s.seq = []) :
    s.mode = .uninit ∧ s.n = 0#8 ∨ s.mode = .oper := by
  cases hm : s.mode with
  | uninit =>
    obtain ⟨-, -, -, -, ⟨hn, -⟩ | ⟨k, zeros, tail, -, -, -, ⟨body, -, rfl⟩, ⟨-, hseq⟩ | ⟨-, hseq⟩⟩, -⟩ :=
      (State.inv_uninit_iff hm).1 hs
    · exact .inl ⟨rfl, hn⟩
    · simp [hq] at hseq
    · simp [hq] at hseq
  | config =>
    obtain ⟨-, -, -, -, ⟨body, -, hseq⟩, -⟩ := (State.inv_config_iff hm).1 hs
    simp [hq] at hseq
  | oper => exact .inr rfl

/-- An accepted command word puts before the sequencer what the invariant allows in its mode. -/
theorem State.Loads.seqInv {s : State} {d : Decoded} {q : List SeqStep} (h : s.Loads d q)
    (hm : s.mode = .uninit ∧ s.n = 0#8 ∨ s.mode = .oper) : State.SeqInv { s with seq := q } := by
  have hreply (hq : IsReply s.n q) : State.SeqInv { s with seq := q } := by
    rcases hm with ⟨hm, hn⟩ | hm
    · simpa [State.SeqInv, hm] using Or.inl ⟨hn, Or.inr hq⟩
    · simpa [State.SeqInv, hm] using Or.inr hq
  cases h with
  | init hu hl =>
    rename_i count
    obtain ⟨hbyte, hpos, hmax⟩ := toNat_of_legalCount hl
    have hn : s.n = 0#8 := by simpa [hu] using hm
    have hne : BitVec.ofNat 8 count ≠ 0#8 := fun h0 => by
      rw [h0] at hbyte
      exact absurd hbyte.symm (by simp; omega)
    have hpending : State.InitPending { s with seq := initSequence s.cfg (BitVec.ofNat 8 count) } :=
      ⟨_, _, _, hne, hbyte.trans_le hmax, zeroSteps_zeroes _, ⟨_, initBody_inBody _ _, rfl⟩,
        .inl ⟨hn, initSequence_eq _ _⟩⟩
    simpa [State.SeqInv, hu] using Or.inr hpending
  | response => exact hreply (getPixelSteps_isReply s _ _)
  | body ho hq => simpa [State.SeqInv, ho] using Or.inl (by simpa using hq)
  | fault => exact hreply (.inr (.inr (.inl ⟨_, rfl⟩)))
  | finish => exact hreply (.inr (.inr (.inr (.inr rfl))))

theorem State.Inv.acceptWord {s : State} (hs : s.Inv) (hq : s.seq = []) (w : CommandWord) :
    (s.acceptWord (decodeCommand w)).Inv := by
  have hseq := (s.loads_commandSteps w).seqInv (hs.idle_mode hq)
  obtain ⟨hfb, hchips, hmax, hn, hr, hnotReady, -, henc⟩ := hs
  exact ⟨hfb, hchips, hmax, hn, hr, hnotReady, hseq, henc⟩

theorem State.Inv.afterReset {s : State} (hs : s.Inv) : s.afterReset.Inv := by
  obtain ⟨hfb, hchips, -, -, -, -, -, henc⟩ := hs
  exact (State.inv_uninit_iff rfl).2
    ⟨hfb, State.chipsInv_afterReset hchips, Nat.zero_le _, rfl, .inl ⟨rfl, .inl rfl⟩, henc⟩

/-! ### Every step keeps the invariant -/

/-- What a step of a block of the invariant finds to do, whole or small: the reset, the rest of the command in progress, the
word on the port, or nothing. -/
theorem State.Inv.step_cases {s : State} (hs : s.Inv) :
    (s.rst = true ∧ step s = .next s.afterReset ∧ s.tick = .next s.afterReset) ∨
    (s.seq ≠ [] ∧ step s = s.resume ∧ s.tick = s.advance) ∨
    (∃ w ws, s.seq = [] ∧ s.host = w :: ws ∧ step s = (s.acceptWord (decodeCommand w)).resume ∧
      s.tick = .next (s.acceptWord (decodeCommand w))) ∨
    (s.seq = [] ∧ step s = .next s.beginStep ∧ s.tick = .next s.beginStep) := by
  obtain ⟨-, -, -, -, -, -, -, he⟩ := hs
  cases hr : s.rst with
  | true =>
    have hf : s.fetch = .reset := by simp [State.fetch, hr]
    exact .inl ⟨rfl, by rw [step, hf], by rw [State.tick, hf]⟩
  | false =>
    by_cases hq : s.seq = []
    · cases hh : s.host with
      | nil =>
        have hf := State.fetch_idle hr he hq hh
        exact .inr (.inr (.inr ⟨hq, by rw [step, hf], by rw [State.tick, hf]⟩))
      | cons w ws =>
        exact .inr (.inr (.inl ⟨w, ws, hq, rfl, step_command hr he hq hh, State.tick_command hr he hq hh⟩))
    · exact .inr (.inl ⟨hq, by rw [step, State.fetch_busy hr he hq], State.tick_busy hr he hq⟩)

/-- Settles O53: each thing a step can find to do keeps the invariant, the rest of a command by induction over its advances. -/
theorem stepKeepsInvariant : Obligations.StepKeepsInvariant := by
  intro s hs
  rcases hs.step_cases with ⟨-, hstep, htick⟩ | ⟨-, hstep, htick⟩ | ⟨w, ws, hq, -, hstep, htick⟩ | ⟨-, hstep, htick⟩ <;>
    rw [hstep, htick]
  · exact ⟨⟨_, rfl, hs.afterReset⟩, _, rfl, hs.afterReset⟩
  · obtain ⟨t, ht⟩ := hs.advance_next
    exact ⟨hs.resume_next, t, ht, hs.of_advance ht⟩
  · exact ⟨(hs.acceptWord hq w).resume_next, _, rfl, hs.acceptWord hq w⟩
  · exact ⟨⟨_, rfl, hs⟩, _, rfl, hs⟩

/-!
## What a step does to mode, N and rsp (10 R21, R22, R33)
From what the sequencer stands at, and from what the acceptance of a command puts before it.
-/

/-! ### Where a step begins to run -/

/-- The state from which a step runs what is left to do, the reset input not asserted: the block itself when busy, the block
with the word on its port accepted, or the block with nothing to do. -/
inductive State.Starts (s : State) : State → Prop
  | busy (hq : s.seq ≠ []) : s.Starts s
  | command {w : CommandWord} {ws : List CommandWord} (hq : s.seq = []) (hh : s.host = w :: ws) :
      s.Starts (s.acceptWord (decodeCommand w))
  | idle (hq : s.seq = []) : s.Starts s.beginStep

theorem State.Starts.n_eq {s u : State} (h : s.Starts u) : u.n = s.n := by
  cases h <;> rfl

theorem State.Starts.mode_eq {s u : State} (h : s.Starts u) : u.mode = s.mode := by
  cases h <;> rfl

theorem State.Starts.inv {s u : State} (h : s.Starts u) (hs : s.Inv) : u.Inv := by
  cases h with
  | busy => exact hs
  | command hq => exact hs.acceptWord hq _
  | idle => exact hs

/-- A step runs what is left to do from where it starts. -/
theorem State.Inv.step_eq_resume {s : State} (hs : s.Inv) (hr : s.rst = false) : ∃ u, s.Starts u ∧ step s = u.resume := by
  rcases hs.step_cases with ⟨hrst, -⟩ | ⟨hq, hstep, -⟩ | ⟨w, ws, hq, hh, hstep, -⟩ | ⟨hq, hstep, -⟩
  · rw [hr] at hrst
    cases hrst
  · exact ⟨s, .busy hq, hstep⟩
  · exact ⟨_, .command hq hh, hstep⟩
  · exact ⟨_, .idle hq, hstep.trans (State.resume_idle (s := s.beginStep) hq).symm⟩

/-- A small step is one advance, or the start of a step. -/
theorem State.Inv.tick_cases {s t : State} (hs : s.Inv) (hr : s.rst = false) (h : s.tick = .next t) :
    s.advance = .next t ∨ s.Starts t := by
  obtain ⟨-, -, -, -, -, -, -, he⟩ := hs
  rcases State.tick_next_cases hr he h with ⟨-, hadv⟩ | ⟨w, ws, hq, hh, rfl⟩ | ⟨hq, -, rfl⟩
  · exact .inl hadv
  · exact .inr (.command hq hh)
  · exact .inr (.idle hq)

/-! ### Which steps the acceptance of a command can put before the sequencer -/

/-- Only a legal INIT in UNINIT loads a `mode <- CONFIG` (43 R131). -/
theorem State.Loads.init_of_setMode {s : State} {d : Decoded} {q : List SeqStep} (h : s.Loads d q) {m : Mode}
    (hmem : .setMode m ∈ q) :
    ∃ count, d = .instr (.init count) ∧ s.mode = .uninit ∧ legalCount s.cfg count = true := by
  cases h with
  | init hm hl => exact ⟨_, rfl, hm, hl⟩
  | response => rcases getPixelSteps_mem hmem with h | h <;> cases h
  | body _ hq => cases List.all_eq_true.1 hq _ hmem
  | fault => simp at hmem
  | finish => simp at hmem

/-- Only a legal INIT in UNINIT loads an `N <- k`, and `k` is its count (43 R131). -/
theorem State.Loads.init_of_writeN {s : State} {d : Decoded} {q : List SeqStep} (h : s.Loads d q) {k : Byte}
    (hmem : .writeN k ∈ q) :
    d = .instr (.init k.toNat) ∧ s.mode = .uninit ∧ legalCount s.cfg k.toNat = true := by
  cases h with
  | init hm hl =>
    rcases mem_initSequence hmem with hk | ⟨hne, -⟩
    · obtain rfl := SeqStep.writeN.inj hk
      rw [(toNat_of_legalCount hl).1]
      exact ⟨rfl, hm, hl⟩
    · exact absurd rfl (hne k)
  | response => rcases getPixelSteps_mem hmem with h | h <;> cases h
  | body _ hq => cases List.all_eq_true.1 hq _ hmem
  | fault => simp at hmem
  | finish => simp at hmem

/-- Only GET_PIXEL loads a response (30 R70). -/
theorem State.Loads.getPixel_of_responds {s : State} {d : Decoded} {q : List SeqStep} (h : s.Loads d q) {op : SeqStep}
    (hmem : op ∈ q) (hop : op.responds = true) : ∃ x y, d = .instr (.getPixel x y) := by
  have hquiet : op.responds = false → ∃ x y, d = .instr (.getPixel x y) := fun h => by rw [h] at hop; cases hop
  cases h with
  | init hm hl =>
    rcases mem_initSequence hmem with rfl | ⟨-, hq⟩
    · exact hquiet rfl
    · exact hquiet hq
  | response => exact ⟨_, _, rfl⟩
  | body _ hq => exact hquiet (SeqStep.inBody_quiet (List.all_eq_true.1 hq _ hmem)).2
  | fault => exact hquiet (by rw [List.mem_singleton.1 hmem]; rfl)
  | finish => exact hquiet (by rw [List.mem_singleton.1 hmem]; rfl)

/-- A `mode <- CONFIG` where a step starts was there before or comes from an accepted legal INIT. -/
theorem State.Starts.init_of_setMode {s u : State} (h : s.Starts u) {m : Mode} (hmem : .setMode m ∈ u.seq) :
    .setMode m ∈ s.seq ∨ ∃ count, s.AcceptsInit count := by
  cases h with
  | busy => exact .inl hmem
  | @command w ws hq hh =>
    obtain ⟨count, hd, hm, hl⟩ := (s.loads_commandSteps w).init_of_setMode hmem
    exact .inr ⟨count, hq, hm, hl, w, ws, hh, hd⟩
  | idle => exact .inl hmem

theorem State.Starts.init_of_writeN {s u : State} (h : s.Starts u) {k : Byte} (hmem : .writeN k ∈ u.seq) :
    .writeN k ∈ s.seq ∨ s.AcceptsInit k.toNat := by
  cases h with
  | busy => exact .inl hmem
  | @command w ws hq hh =>
    obtain ⟨hd, hm, hl⟩ := (s.loads_commandSteps w).init_of_writeN hmem
    exact .inr ⟨hq, hm, hl, w, ws, hh, hd⟩
  | idle => exact .inl hmem

theorem State.Starts.getPixel_of_responds {s u : State} (h : s.Starts u) {op : SeqStep} (hmem : op ∈ u.seq)
    (hop : op.responds = true) : op ∈ s.seq ∨ ∃ x y, s.AcceptsGetPixel x y := by
  cases h with
  | busy => exact .inl hmem
  | @command w ws hq hh =>
    obtain ⟨x, y, hd⟩ := (s.loads_commandSteps w).getPixel_of_responds hmem hop
    exact .inr ⟨x, y, hq, w, ws, hh, hd⟩
  | idle => exact .inl hmem

/-! ### mode -/

/-- An advance leaves mode, or is the `mode <- CONFIG` of an INIT in UNINIT or the `mode <- OPER` that ends it (10 R22). -/
theorem State.Inv.advance_mode {s t : State} (hs : s.Inv) (h : s.advance = .next t) :
    t.mode = s.mode ∨
      s.mode = .uninit ∧ t.mode = .config ∧ s.seq = .setMode .config :: t.seq ∨
      s.mode = .config ∧ t.mode = .oper ∧ s.seq = [.setMode .oper] ∧ t.seq = [] := by
  rcases hs.advance_cases h with rfl | ⟨op, rest, hq, htodo, ha, ht⟩
  · exact .inl rfl
  · refine (SeqStep.act_mode ha).imp_right fun hop => ?_
    generalize t.mode = m at hop ⊢
    subst hop
    cases htodo with
    | zero _ _ hop => cases hop
    | enterConfig hm => exact .inl ⟨hm, rfl, ht ▸ hq⟩
    | configBody _ _ hop => cases hop
    | enterOper hm => exact .inr ⟨hm, rfl, hq, ht⟩
    | operBody _ _ hop => cases hop
    | reply _ hreply =>
      obtain ⟨-, hnoMode, -⟩ := hreply.head
      exact absurd rfl (hnoMode m)

/-- How the mode of a later state of a run stands to the one at its start: the same, or INIT has gone on to CONFIG, or to OPER and
its end. -/
def State.ModeMoves (u v : State) : Prop :=
  v.mode = u.mode ∨
    u.mode ≠ .oper ∧ (u.mode = .uninit → .setMode .config ∈ u.seq) ∧ (v.mode = .config ∨ v.mode = .oper ∧ v.seq = [])

theorem State.ModeMoves.advance {u v v' : State} (h : u.ModeMoves v) (hv : v.Inv) (hsuffix : v.seq <:+ u.seq)
    (hadv : v.advance = .next v') : u.ModeMoves v' := by
  rcases hv.advance_mode hadv with hsame | ⟨hm, hm', hq⟩ | ⟨hm, hm', -, hq'⟩
  · rcases h with hu | ⟨hne, hload, hc | ⟨ho, hnil⟩⟩
    · exact .inl (hsame.trans hu)
    · exact .inr ⟨hne, hload, .inl (hsame.trans hc)⟩
    · have hnil' : v'.seq = [] := List.suffix_nil.1 (hnil ▸ State.advance_suffix hadv)
      exact .inr ⟨hne, hload, .inr ⟨hsame.trans ho, hnil'⟩⟩
  · rcases h with hu | ⟨-, -, hc | ⟨ho, -⟩⟩
    · have hload : .setMode .config ∈ u.seq := hsuffix.subset (hq ▸ List.mem_cons_self)
      exact .inr ⟨by simp [← hu, hm], fun _ => hload, .inl hm'⟩
    · simp [hm] at hc
    · simp [hm] at ho
  · refine .inr ⟨?_, ?_, .inr ⟨hm', hq'⟩⟩
    · rcases h with hu | ⟨hne, -⟩
      · simp [← hu, hm]
      · exact hne
    · rcases h with hu | ⟨-, hload, -⟩
      · simp [← hu, hm]
      · exact hload

theorem State.Inv.resume_modeMoves {u t : State} (hu : u.Inv) (h : u.resume = .next t) : t.Inv ∧ u.ModeMoves t := by
  refine State.resume_induct (P := fun v => v.Inv ∧ u.ModeMoves v) ?_ ⟨hu, .inl rfl⟩ h
  rintro v w hsuffix ⟨hv, hmoves⟩ hadv
  exact ⟨hv.of_advance hadv, hmoves.advance hv hsuffix hadv⟩

/-- A block of the invariant in CONFIG is busy. -/
theorem State.Inv.busy_of_config {s : State} (hs : s.Inv) (hm : s.mode = .config) : s.seq ≠ [] := fun hq => by
  rcases hs.idle_mode hq with ⟨hu, -⟩ | ho
  · simp [hm] at hu
  · simp [hm] at ho

/-- Settles O56: a small step by what the sequencer stands at, a whole step by induction over its small steps. -/
theorem modeIsLinear : Obligations.ModeIsLinear := by
  refine ⟨fun s t hs hr h => ?_, fun s t hs hr h => ?_⟩
  · rcases hs.tick_cases hr h with hadv | hstart
    · exact ⟨hs.advance_mode hadv, fun hmem => .inl ((State.advance_suffix hadv).subset hmem)⟩
    · exact ⟨.inl hstart.mode_eq, hstart.init_of_setMode⟩
  · obtain ⟨u, hstart, hstep⟩ := hs.step_eq_resume hr
    obtain ⟨ht, hmoves⟩ := (hstart.inv hs).resume_modeMoves (hstep ▸ h)
    have hend : t.mode = .config ∨ t.mode = .oper ∧ t.seq = [] →
        t.mode = .oper ∧ t.seq = [] ∨ t.mode = .config ∧ t.seq ≠ [] :=
      fun h => h.symm.imp_right fun hc => ⟨hc, ht.busy_of_config hc⟩
    rw [State.ModeMoves, hstart.mode_eq] at hmoves
    rcases hmoves with hsame | ⟨hne, hload, hmoved⟩
    · exact ⟨fun hm => hsame.trans hm, fun hm => hend (.inl (hsame.trans hm)), fun hm => .inl (hsame.trans hm)⟩
    · exact ⟨fun hm => absurd hm hne, fun _ => hend hmoved,
        fun hm => .inr ⟨hstart.init_of_setMode (hload hm), hend hmoved⟩⟩

/-! ### N -/

/-- After the step a block of the invariant stands at come no `N <- k` and no response. -/
theorem State.Todo.rest_quiet {s : State} {op : SeqStep} {rest : List SeqStep} (h : s.Todo op rest) {o : SeqStep}
    (hmem : o ∈ rest) : (∀ k, o ≠ .writeN k) ∧ o.responds = false := by
  have hbody {n : Byte} {q : List SeqStep} (hq : q.all (SeqStep.inBody n) = true) (ho : o ∈ q) :=
    SeqStep.inBody_quiet (List.all_eq_true.1 hq o ho)
  have hzeros {n : Byte} {q : List SeqStep} (hq : q.all (SeqStep.zeroes n) = true) (ho : o ∈ q) :=
    SeqStep.inBody_quiet (SeqStep.inBody_of_zeroes (List.all_eq_true.1 hq o ho))
  have hlast (ho : o ∈ [SeqStep.setMode .oper]) : (∀ k, o ≠ .writeN k) ∧ o.responds = false := by
    rw [List.mem_singleton.1 ho]
    exact ⟨nofun, rfl⟩
  cases h with
  | writeN _ _ _ _ hz htail => exact (List.mem_append.1 hmem).elim (hzeros hz) htail.quiet
  | zero _ _ _ hz htail => exact (List.mem_append.1 hmem).elim (hzeros hz) htail.quiet
  | enterConfig _ _ _ hb => exact IsInitTail.quiet ⟨_, hb, rfl⟩ (List.mem_cons_of_mem _ hmem)
  | initTransfer _ hb => exact (List.mem_append.1 hmem).elim (hbody hb) hlast
  | configBody _ _ _ hb => exact (List.mem_append.1 hmem).elim (hbody hb) hlast
  | enterOper => cases hmem
  | operBody _ _ _ hrest => exact hbody hrest hmem
  | reply _ hq =>
    obtain ⟨-, -, -, -, rfl | ⟨f, rfl⟩⟩ := hq.head
    · cases hmem
    · rw [List.mem_singleton.1 hmem]
      exact ⟨nofun, rfl⟩

/-- An `N <- k` to be done is the next step, in UNINIT with `N = 0`, and `k` is a legal count (43 R131). -/
theorem State.Inv.writeN_mem {s : State} (hs : s.Inv) {k : Byte} (hmem : .writeN k ∈ s.seq) :
    s.mode = .uninit ∧ s.n = 0#8 ∧ 1 ≤ k.toNat ∧ k.toNat ≤ s.cfg.nMax.toNat ∧ ∃ rest, s.seq = .writeN k :: rest := by
  obtain ⟨op, rest, hq⟩ := List.exists_cons_of_ne_nil (List.ne_nil_of_mem hmem)
  have htodo := hs.todo hq
  rw [hq] at hmem
  rcases List.mem_cons.1 hmem with rfl | hrest
  · cases htodo with
    | writeN hm hn hk hmax =>
      have hpos : k.toNat ≠ 0 := fun h0 => hk (BitVec.eq_of_toNat_eq h0)
      exact ⟨hm, hn, by omega, hmax, _, hq⟩
    | zero _ _ hop => cases hop
    | configBody _ _ hop => cases hop
    | operBody _ _ hop => cases hop
    | reply _ hreply =>
      obtain ⟨hnoN, -⟩ := hreply.head
      exact absurd rfl (hnoN k)
  · obtain ⟨hnoN, -⟩ := htodo.rest_quiet hrest
    exact absurd rfl (hnoN k)

/-- A run changes N only by an `N <- n` that it had to do. -/
theorem State.resume_n {u t : State} (h : u.resume = .next t) : t.n = u.n ∨ .writeN t.n ∈ u.seq := by
  refine State.resume_induct (P := fun v => v.n = u.n ∨ .writeN v.n ∈ u.seq) ?_ (.inl rfl) h
  intro v w hsuffix hn hadv
  rcases State.advance_next_cases hadv with ⟨-, rfl⟩ | ⟨op, rest, hq, ha, -⟩ | ⟨op, rest, -, -, rfl⟩
  · exact hn
  · rcases SeqStep.act_n ha with hsame | rfl
    · rw [hsame]
      exact hn
    · exact .inr (hsuffix.subset (hq ▸ List.mem_cons_self))
  · exact hn

/-- Settles O57: an `N <- k` is where the step starts only if it was there before or a legal INIT of `k` is accepted. -/
theorem deviceCountWrittenOnce : Obligations.DeviceCountWrittenOnce := by
  refine ⟨fun s t hs hr h hne => ?_, fun s t hs hr h => ?_⟩
  · obtain ⟨u, hstart, hstep⟩ := hs.step_eq_resume hr
    have hu := hstart.inv hs
    have hmem : .writeN t.n ∈ u.seq :=
      (State.resume_n (hstep ▸ h)).resolve_left fun hsame => hne (hsame.trans hstart.n_eq)
    obtain ⟨hm, hn, hpos, hmax, -⟩ := hu.writeN_mem hmem
    have hcfg : u.cfg = s.cfg := by cases hstart <;> rfl
    refine ⟨hstart.mode_eq ▸ hm, hstart.n_eq ▸ hn, hpos, hcfg ▸ hmax, ?_⟩
    rcases hstart.init_of_writeN hmem with hold | haccepts
    · obtain ⟨-, -, -, -, hhead⟩ := hs.writeN_mem hold
      exact .inr hhead
    · exact .inl haccepts
  · rcases hs.tick_cases hr h with hadv | hstart
    · refine ⟨fun hne => ?_, fun k hmem => .inl ((State.advance_suffix hadv).subset hmem)⟩
      rcases hs.advance_cases hadv with rfl | ⟨op, rest, hq, -, ha, ht⟩
      · exact absurd rfl hne
      · obtain rfl : op = .writeN t.n := (SeqStep.act_n ha).resolve_left hne
        obtain ⟨hm, hn, -⟩ := hs.writeN_mem (hq ▸ List.mem_cons_self)
        exact ⟨hm, hn, ht ▸ hq⟩
    · exact ⟨fun hne => absurd hstart.n_eq hne, fun k hmem => hstart.init_of_writeN hmem⟩

/-! ### rsp -/

/-- A run that stands at a response makes it and no other. -/
theorem State.Inv.resume_responds {u t : State} (hu : u.Inv) {op : SeqStep} {rest : List SeqStep} {b : Bool}
    (hq : u.seq = op :: rest) (hact : op.act { u with seq := rest } = .done (State.respond { u with seq := rest } b))
    (h : u.resume = .next t) : t.rspValid = true ∧ t.rsp = b := by
  rw [State.resume_cons_done hq hact] at h
  obtain ⟨hrsp, hvalid⟩ := State.resume_keeps_response (fun o ho => ((hu.todo hq).rest_quiet ho).2) h
  exact ⟨hvalid, hrsp⟩

/-- A pixel's response to be made is that of a byte that exists. -/
theorem State.Todo.respondPixel_lt {s : State} {r : Fin 8} {d : Nat} {k : Fin 8} {rest : List SeqStep}
    (h : s.Todo (.respondPixel r d k) rest) : d < s.n.toNat := by
  cases h with
  | zero _ _ hop => cases hop
  | configBody _ _ hop => cases hop
  | operBody _ _ hop => cases hop
  | reply _ hq =>
    rcases hq with ⟨b, hq⟩ | ⟨r', d', k', hd, hq⟩ | ⟨f, hq⟩ | ⟨b, f, hq⟩ | hq <;> cases hq
    exact hd

/-- The step that runs a GET_PIXEL word answers the pixel's bit (41 R93, R94). -/
theorem State.Inv.resume_getPixel {s t : State} (hs : s.Inv) (hq : s.seq = []) {w : CommandWord} {x y : Int}
    (hd : decodeCommand w = .instr (.getPixel x y)) (h : (s.acceptWord (decodeCommand w)).resume = .next t) :
    t.rspValid = true ∧ t.rsp = (decide (s.mode = .oper) && s.pixelOn x y) := by
  have hload : (s.acceptWord (decodeCommand w)).seq = getPixelSteps s x y := by
    rw [State.acceptWord_seq, hd, commandSteps, stepList, orFinish_of_ne_nil (getPixelSteps_ne_nil s x y)]
  have hu := hs.acceptWord hq w
  rcases getPixelSteps_cases s x y with ⟨rest, hsteps, hbit, -⟩ | ⟨r, d, k, hsteps, hlt, hbit⟩ <;> rw [hbit]
  · exact hu.resume_responds (hload.trans hsteps) rfl h
  · exact hu.resume_responds (hload.trans hsteps) (SeqStep.act_respondPixel (by exact hlt) r k) h

/-- Settles O59: a step responds only at a response that it stands at, its own GET_PIXEL's or one accepted before. -/
theorem responseOnlyByGetPixel : Obligations.ResponseOnlyByGetPixel := by
  refine ⟨fun s t hs hr h => ?_, fun s t op hs hr h hmem hop => ?_⟩
  · obtain ⟨u, hstart, hstep⟩ := hs.step_eq_resume hr
    have hu := hstart.inv hs
    have hrun : u.resume = .next t := hstep ▸ h
    by_cases hquiet : ∀ op ∈ u.seq, op.responds = false
    · obtain ⟨hrsp, hvalid⟩ := State.resume_keeps_response hquiet hrun
      refine .inr (.inr (.inr ?_))
      cases hstart with
      | busy hq =>
        have hbusy : s.busy = true := by simpa [State.busy] using hq
        exact ⟨hrsp, by rw [hvalid, hbusy, Bool.true_and]⟩
      | command hq => exact ⟨hrsp, by simpa [State.busy, hq] using hvalid⟩
      | idle hq => exact ⟨hrsp, by simpa [State.busy, hq] using hvalid⟩
    · obtain ⟨op, hmem, hop⟩ : ∃ op ∈ u.seq, op.responds = true := by simpa using hquiet
      cases hstart with
      | command hq hh =>
        obtain ⟨x, y, hd⟩ := (s.loads_commandSteps _).getPixel_of_responds hmem hop
        exact .inl ⟨x, y, ⟨hq, _, _, hh, hd⟩, hs.resume_getPixel hq hd hrun⟩
      | idle hq => simp [hq] at hmem
      | busy =>
        obtain ⟨head, rest, hq⟩ := List.exists_cons_of_ne_nil (List.ne_nil_of_mem hmem)
        have htodo := hs.todo hq
        have hhead : head.responds = true := by
          rcases List.mem_cons.1 (hq ▸ hmem) with rfl | hrest
          · exact hop
          · rw [(htodo.rest_quiet hrest).2] at hop
            cases hop
        cases head with
        | respond b => exact .inr (.inl ⟨b, rest, hq, hs.resume_responds hq rfl hrun⟩)
        | respondPixel r d k =>
          have hact := SeqStep.act_respondPixel (s := { s with seq := rest }) htodo.respondPixel_lt r k
          exact .inr (.inr (.inl ⟨r, d, k, rest, hq, hs.resume_responds hq hact hrun⟩))
        | _ => cases hhead
  · rcases hs.tick_cases hr h with hadv | hstart
    · exact .inl ((State.advance_suffix hadv).subset hmem)
    · exact hstart.getPixel_of_responds hmem hop

end Sys2Proof.Machine
end

section
/-!
PROOFS. The framing of the trace (20 R42, R51): every command's step list is made of whole sets, each of exactly `2·N` sends and a
latch, so the events of any beginning of its run are framed.
-/

namespace Sys2Proof.Machine

/-! ### The Transfer Primitive call of a primitive step -/

/-- The event of the call a primitive step makes, if it makes one (00 R13, 20 R50). -/
def SeqStep.call (s : State) : SeqStep → Option Event
  | .tpInit => some .init
  | .tpSend b => some (.send b)
  | .tpSendFb r d => some (.send (s.fbByte r d))
  | .tpLatch => some .latch
  | .writeN _ | .setMode _ | .fbZero _ _ | .fbPut _ _ _ _ | .fbFlip _ _ _ | .respond _ | .respondPixel _ _ _ | .raise _
  | .finish => none

theorem State.fbModify_trace {s t : State} {r : Fin 8} {d : Nat} {f : Byte → Byte} (h : s.fbModify r d f = .done t) :
    t.trace = s.trace := by
  obtain ⟨-, rfl⟩ := State.fbModify_done h
  rfl

theorem State.tpTraffic_trace {s t : State} {e : Event} (h : s.tpTraffic e = .done t) : t.trace = s.trace ++ [e] := by
  obtain ⟨-, -, rfl⟩ := State.tpTraffic_done h
  rfl

/-- A step that is done adds the event of its call to the trace, and nothing else. -/
theorem SeqStep.act_trace {op : SeqStep} {s t : State} (h : op.act s = .done t) :
    t.trace = s.trace ++ (op.call s).toList := by
  cases op with
  | tpInit =>
    obtain ⟨-, rfl⟩ := State.tpInit_done h
    rfl
  | tpSend b => exact State.tpTraffic_trace h
  | tpSendFb r d =>
    rw [SeqStep.act] at h
    split at h
    · exact State.tpTraffic_trace h
    · cases h
  | tpLatch => exact State.tpTraffic_trace h
  | respondPixel r d k =>
    rw [SeqStep.act] at h
    split at h
    · cases h
      exact (List.append_nil _).symm
    · cases h
  | fbZero r d => exact (State.fbModify_trace (f := fun _ => 0#8) h).trans (List.append_nil _).symm
  | fbPut r d k on => exact (State.fbModify_trace h).trans (List.append_nil _).symm
  | fbFlip r d k => exact (State.fbModify_trace h).trans (List.append_nil _).symm
  | raise f => cases h; simp [SeqStep.call]
  | _ => cases h; exact (List.append_nil _).symm

/-! ### Step lists whose calls come in whole sets -/

/-- How many bytes have been sent since the last latch once a step is done, `k` of them before it; none where the framing
breaks, or where N is written and with it the length of a set. -/
def SeqStep.sentAfter (c : Config) (n k : Nat) : SeqStep → Option Nat
  | .tpInit => if k = 0 then some 0 else none
  | .tpSend b => if (k % 2 = 1 ∨ isChipRegister c b = true) ∧ k < 2 * n then some (k + 1) else none
  | .tpSendFb _ _ => if k % 2 = 1 ∧ k < 2 * n then some (k + 1) else none
  | .tpLatch => if k = 2 * n then some 0 else none
  | .writeN _ => none
  | .setMode _ | .fbZero _ _ | .fbPut _ _ _ _ | .fbFlip _ _ _ | .respond _ | .respondPixel _ _ _ | .raise _
  | .finish => some k

/-- A step that counts leads from framed events to framed events. -/
theorem SeqStep.framed_call_append {c : Config} {n k j : Nat} {op : SeqStep} {es : List Event}
    (hk : op.sentAfter c n k = some j) (hes : framed c n j es = true) (s : State) :
    framed c n k ((op.call s).toList ++ es) = true := by
  cases op with
  | tpInit =>
    obtain ⟨rfl, rfl⟩ : k = 0 ∧ j = 0 := by simpa [SeqStep.sentAfter, eq_comm] using hk
    simpa [SeqStep.call, framed] using hes
  | tpSend b =>
    obtain ⟨hb, rfl⟩ : ((k % 2 = 1 ∨ isChipRegister c b = true) ∧ k < 2 * n) ∧ k + 1 = j := by
      simpa [SeqStep.sentAfter] using hk
    simpa [SeqStep.call, framed, hes] using hb
  | tpSendFb r d =>
    obtain ⟨⟨hodd, hlt⟩, rfl⟩ : (k % 2 = 1 ∧ k < 2 * n) ∧ k + 1 = j := by simpa [SeqStep.sentAfter] using hk
    simp [SeqStep.call, framed, hes, hodd, hlt]
  | tpLatch =>
    obtain ⟨rfl, rfl⟩ : k = 2 * n ∧ j = 0 := by simpa [SeqStep.sentAfter, eq_comm] using hk
    simpa [SeqStep.call, framed] using hes
  | writeN m => cases hk
  | _ => cases hk; exact hes

/-- A step that counts leaves N as it was. -/
theorem SeqStep.act_n_of_sentAfter {op : SeqStep} {s t : State} {c : Config} {n k j : Nat} (h : op.act s = .done t)
    (hk : op.sentAfter c n k = some j) : t.n = s.n := by
  refine (SeqStep.act_n h).resolve_right ?_
  intro hop
  rw [hop] at hk
  cases hk

/-- A run, whether it completes or waits, of steps that count adds framed events and leaves N as it was. -/
theorem runSteps_framed {ops : List SeqStep} {s t : State} {k j : Nat}
    (hk : ops.foldlM (SeqStep.sentAfter s.cfg s.n.toNat) k = some j) (h : runSteps ops s = .next t) :
    t.n = s.n ∧ ∃ es, t.trace = s.trace ++ es ∧ framed s.cfg s.n.toNat k es = true := by
  induction ops generalizing s k with
  | nil =>
    cases h
    exact ⟨rfl, [], (List.append_nil _).symm, by simp [framed]⟩
  | cons op rest ih =>
    rcases runSteps_next_cases h with ⟨hnil, _⟩ | ⟨op', rest', u, hcons, hact, hrun⟩ | ⟨op', rest', _, _, rfl⟩
    · cases hnil
    · cases hcons
      obtain ⟨i, hi, hrest⟩ : ∃ i, op.sentAfter s.cfg s.n.toNat k = some i ∧
          rest.foldlM (SeqStep.sentAfter s.cfg s.n.toNat) i = some j := by
        simpa [List.foldlM_cons, Option.bind_eq_some_iff] using hk
      have hn : u.n = s.n := SeqStep.act_n_of_sentAfter hact hi
      have hcfg : u.cfg = s.cfg := (SeqStep.act_frame hact).1
      rw [← hn, ← hcfg] at hrest
      obtain ⟨htn, es, htrace, hes⟩ := ih hrest hrun
      rw [hn, hcfg] at hes
      refine ⟨htn.trans hn, (op.call s).toList ++ es, ?_, SeqStep.framed_call_append hi hes s⟩
      rw [htrace, SeqStep.act_trace hact, List.append_assoc]
    · exact ⟨rfl, [], (List.append_nil _).symm, by simp [framed]⟩

/-- A step list that starts and ends between sets, its calls framed. -/
def WholeSets (c : Config) (n : Nat) (q : List SeqStep) : Prop := q.foldlM (SeqStep.sentAfter c n) 0 = some 0

theorem WholeSets.append {c : Config} {n : Nat} {p q : List SeqStep} (hp : WholeSets c n p) (hq : WholeSets c n q) :
    WholeSets c n (p ++ q) := by
  rw [WholeSets, List.foldlM_append, hp]
  exact hq

theorem WholeSets.flatMap {α : Type} {c : Config} {n : Nat} {xs : List α} {f : α → List SeqStep}
    (h : ∀ x ∈ xs, WholeSets c n (f x)) : WholeSets c n (xs.flatMap f) := by
  induction xs with
  | nil => rfl
  | cons x xs ih =>
    rw [List.flatMap_cons]
    exact (h x (by simp)).append (ih fun y hy => h y (by simp [hy]))

/-- As many packets as there are devices, each a chip register's address and a byte for it, and a latch are one set (20 R51). -/
theorem wholeSets_packets_latch {c : Config} {n a : Byte} {value : Nat → SeqStep} (ha : isChipRegister c a = true)
    (hvalue : ∀ d k, k % 2 = 1 → k < 2 * n.toNat → (value d).sentAfter c n.toNat k = some (k + 1)) :
    WholeSets c n.toNat (((devicesDown n).flatMap fun d => [.tpSend a, value d]) ++ [.tpLatch]) := by
  have hpackets : ∀ (ds : List Nat) (k : Nat), k % 2 = 0 → k + 2 * ds.length ≤ 2 * n.toNat →
      (ds.flatMap fun d => [.tpSend a, value d]).foldlM (SeqStep.sentAfter c n.toNat) k = some (k + 2 * ds.length) := by
    intro ds
    induction ds with
    | nil => exact fun k _ _ => rfl
    | cons d ds ih =>
      intro k heven hle
      rw [List.length_cons] at hle ⊢
      have haddress : (SeqStep.tpSend a).sentAfter c n.toNat k = some (k + 1) := if_pos ⟨.inr ha, by omega⟩
      simp only [List.flatMap_cons, List.cons_append, List.nil_append, List.foldlM_cons, haddress,
        hvalue d (k + 1) (by omega) (by omega), Option.bind_eq_bind, Option.bind_some]
      rw [ih (k + 1 + 1) (by omega) (by omega)]
      congr 1
      omega
  have hlen : (devicesDown n).length = n.toNat := by simp [devicesDown]
  rw [WholeSets, List.foldlM_append, hpackets _ 0 rfl (by omega), hlen]
  simp [SeqStep.sentAfter]

/-! ### The step lists of the commands -/

theorem rowSyncSteps_wholeSets (c : Config) (n : Byte) (r : Fin 8) : WholeSets c n.toNat (rowSyncSteps n r) :=
  wholeSets_packets_latch (isChipRegister_digitReg c r) fun _ _ hodd hlt => if_pos ⟨hodd, hlt⟩

theorem cfgWriteSteps_wholeSets {c : Config} {a : Byte} (ha : a ∈ c.configAddresses) (n v : Byte) :
    WholeSets c n.toNat (cfgWriteSteps n a v) :=
  wholeSets_packets_latch (by simp [isChipRegister, ha]) fun _ _ hodd hlt => if_pos ⟨.inl hodd, hlt⟩

theorem zeroSteps_wholeSets (c : Config) (n : Byte) : WholeSets c n.toNat (zeroSteps n) := by
  refine WholeSets.flatMap fun r _ => ?_
  rw [List.map_eq_flatMap]
  exact WholeSets.flatMap fun d _ => rfl

theorem clearAllSteps_wholeSets (c : Config) (n : Byte) : WholeSets c n.toNat (clearAllSteps n) :=
  (zeroSteps_wholeSets c n).append (WholeSets.flatMap fun r _ => rowSyncSteps_wholeSets c n r)

theorem setPixSteps_wholeSets (c : Config) (n : Byte) (x y : Int) (on : Bool) :
    WholeSets c n.toNat (setPixSteps n x y on) := by
  rw [setPixSteps]
  cases locate n x y with
  | none => rfl
  | some p => exact rowSyncSteps_wholeSets c n p.row

theorem togglePixSteps_wholeSets (c : Config) (n : Byte) (x y : Int) :
    WholeSets c n.toNat (togglePixSteps n x y) := by
  rw [togglePixSteps]
  cases locate n x y with
  | none => rfl
  | some p => exact rowSyncSteps_wholeSets c n p.row

theorem putPixSteps_wholeSets (c : Config) (n : Byte) (x y : Int) (on : Bool) :
    WholeSets c n.toNat (putPixSteps n x y on) := by
  rw [putPixSteps]
  cases locate n x y with
  | none => rfl
  | some p => rfl

theorem blitEachSteps_wholeSets (c : Config) (n : Byte) (ox oy : Int) (sprite : Sprite) :
    WholeSets c n.toNat (blitEachSteps n ox oy sprite) :=
  WholeSets.flatMap fun _ _ => setPixSteps_wholeSets c n _ _ _

theorem blitBatchedSteps_wholeSets (c : Config) (n : Byte) (ox oy : Int) (sprite : Sprite) :
    WholeSets c n.toNat (blitBatchedSteps n ox oy sprite) :=
  (WholeSets.flatMap fun _ _ => putPixSteps_wholeSets c n _ _ _).append
    (WholeSets.flatMap fun r _ => rowSyncSteps_wholeSets c n r)

/-- The six items of INIT's fixed sequence (43 R128). -/
theorem initBody_wholeSets (c : Config) (n : Byte) : WholeSets c n.toNat (initBody c n) := by
  rw [initBody]
  refine ((((WholeSets.append ?_ ?_).append ?_).append (clearAllSteps_wholeSets c n)).append ?_).append ?_ <;>
    exact cfgWriteSteps_wholeSets (by simp [Config.configAddresses]) n _

/-- A legal INIT once N is written: zeroing, `init_transfer` between sets, the fixed sequence (43 R131). -/
theorem initSequence_wholeSets (c : Config) (n : Byte) :
    ∃ q, initSequence c n = .writeN n :: q ∧ WholeSets c n.toNat q := by
  have hstart : WholeSets c n.toNat [.setMode .config, .tpInit] := rfl
  have hend : WholeSets c n.toNat [.setMode .oper] := rfl
  exact ⟨_, initSequence_eq c n, (zeroSteps_wholeSets c n).append ((hstart.append (initBody_wholeSets c n)).append hend)⟩

/-- The prologue: outside OPER a command has one `raise` to do (41 R90). -/
theorem operSteps_wholeSets {c : Config} {n : Nat} {s : State} {q : List SeqStep} (hq : WholeSets c n q) :
    WholeSets c n (operSteps s q) := by
  rw [operSteps]
  split
  · exact hq
  · rfl

theorem getPixelSteps_wholeSets (c : Config) (n : Nat) (s : State) (x y : Int) :
    WholeSets c n (getPixelSteps s x y) := by
  rcases getPixelSteps_cases s x y with ⟨rest, hq, -, rfl | rfl⟩ | ⟨r, d, k, hq, -, -⟩ <;> rw [hq] <;> rfl

theorem blitSteps_wholeSets (s : State) (ox oy : Int) (sprite : Sprite) :
    WholeSets s.cfg s.n.toNat (blitSteps s ox oy sprite) := by
  refine operSteps_wholeSets ?_
  split
  · exact blitBatchedSteps_wholeSets s.cfg s.n ox oy sprite
  · exact blitEachSteps_wholeSets s.cfg s.n ox oy sprite

theorem initSteps_cases (s : State) (count : Nat) :
    (∃ f, initSteps s count = [.raise f]) ∨ initSteps s count = initSequence s.cfg (BitVec.ofNat 8 count) := by
  rw [initSteps]
  split
  · exact .inl ⟨.seq, rfl⟩
  · split
    · exact .inr rfl
    · exact .inl ⟨.badn, rfl⟩

/-- A command's calls come in whole sets, of the device count in force or, in a legal INIT, of the one it writes first. -/
theorem stepList_wholeSets (i : Instr) (s : State) (h : i.isCommand = true) :
    WholeSets s.cfg s.n.toNat (stepList i s) ∨
      ∃ n q, stepList i s = .writeN n :: q ∧ WholeSets s.cfg n.toNat q := by
  cases i with
  | init count =>
    rcases initSteps_cases s count with ⟨f, hf⟩ | hlegal
    · rw [stepList, hf]
      exact .inl rfl
    · rw [stepList, hlegal]
      exact .inr ⟨_, initSequence_wholeSets s.cfg _⟩
  | setPixel x y on => exact .inl (operSteps_wholeSets (setPixSteps_wholeSets s.cfg s.n x y on))
  | getPixel x y => exact .inl (getPixelSteps_wholeSets s.cfg _ s x y)
  | togglePixel x y => exact .inl (operSteps_wholeSets (togglePixSteps_wholeSets s.cfg s.n x y))
  | clear => exact .inl (operSteps_wholeSets (clearAllSteps_wholeSets s.cfg s.n))
  | blit ox oy sprite => exact .inl (blitSteps_wholeSets s ox oy sprite)
  | _ => cases h

/-- Settles O37: the run of a step list made of whole sets adds framed events; a legal INIT runs so from its write of N on. -/
theorem latchesFrameWholeSets : Obligations.LatchesFrameWholeSets := by
  intro i s t hi hq hrun
  rw [exec_idle i s hq] at hrun
  rcases stepList_wholeSets i s hi with hsets | ⟨n, q, hlist, hsets⟩
  · obtain ⟨hn, hframed⟩ := runSteps_framed hsets hrun
    rw [hn]
    exact hframed
  · rw [hlist, runSteps_cons_done (t := { s with n := n }) rfl] at hrun
    obtain ⟨hn, hframed⟩ := runSteps_framed (s := { s with n := n }) hsets hrun
    rw [hn]
    exact hframed

end Sys2Proof.Machine
end

section
/-!
PROOFS. The encoding family: what the decoders read (30 R62 to R73), decoding after encoding, the packets sent alone (43
R125), and the host's words a busy block does not look at (30 R61).
-/

namespace Sys2Proof

open Machine
open Laws.OpcodeRow (opField_mkCommand)

/-! ### The command decoder on a word put together from its fields (30 R62 to R67) -/

@[simp] theorem aField_mkCommand (op : Byte) (a b : BitVec 16) (p : BitVec 64) : aField (mkCommand op a b p) = a := by
  rw [aField, mkCommand, BitVec.extractLsb'_append_eq_of_le (by decide), BitVec.extractLsb'_append_eq_of_le (by decide)]
  exact BitVec.extractLsb'_append_eq_right

@[simp] theorem bField_mkCommand (op : Byte) (a b : BitVec 16) (p : BitVec 64) : bField (mkCommand op a b p) = b := by
  rw [bField, mkCommand, BitVec.extractLsb'_append_eq_of_le (by decide)]
  exact BitVec.extractLsb'_append_eq_right

@[simp] theorem pField_mkCommand (op : Byte) (a b : BitVec 16) (p : BitVec 64) : pField (mkCommand op a b p) = p :=
  BitVec.extractLsb'_append_eq_right

section
variable (a b : BitVec 16) (p : BitVec 64)

theorem decodeCommand_init : decodeCommand (mkCommand 0x01#8 a b p) = .instr (.init a.toNat) := by
  simp [decodeCommand, opField_mkCommand]

theorem decodeCommand_setPixel :
    decodeCommand (mkCommand 0x02#8 a b p) = .instr (.setPixel a.toInt b.toInt (p.getLsbD 0)) := by
  simp [decodeCommand, opField_mkCommand]

theorem decodeCommand_getPixel : decodeCommand (mkCommand 0x03#8 a b p) = .instr (.getPixel a.toInt b.toInt) := by
  simp [decodeCommand, opField_mkCommand]

theorem decodeCommand_togglePixel :
    decodeCommand (mkCommand 0x04#8 a b p) = .instr (.togglePixel a.toInt b.toInt) := by
  simp [decodeCommand, opField_mkCommand]

theorem decodeCommand_clear : decodeCommand (mkCommand 0x05#8 a b p) = .instr .clear := by
  simp [decodeCommand, opField_mkCommand]

theorem decodeCommand_blit : decodeCommand (mkCommand 0x06#8 a b p) = .instr (.blit a.toInt b.toInt p) := by
  simp [decodeCommand, opField_mkCommand]

end

/-- Settles O4: the decoder's equation for each of the six opcodes. -/
theorem decoderReadsFields : Obligations.DecoderReadsFields := fun a b p =>
  ⟨decodeCommand_init a b p, decodeCommand_setPixel a b p, decodeCommand_getPixel a b p,
    decodeCommand_togglePixel a b p, decodeCommand_clear a b p, decodeCommand_blit a b p⟩

/-! ### The packet decoder (30 R71, R72) -/

/-- The packet kind of row `r`'s digit register (30 R72). -/
def digitPacket (r : Fin 8) (v : Byte) : Instr :=
  match r with
  | 0 => .digit0 v
  | 1 => .digit1 v
  | 2 => .digit2 v
  | 3 => .digit3 v
  | 4 => .digit4 v
  | 5 => .digit5 v
  | 6 => .digit6 v
  | 7 => .digit7 v

theorem decodePacket_digitReg (c : Config) (r : Fin 8) (v : Byte) :
    decodePacket c (mkPacket (digitReg r) v) = .instr (digitPacket r v) := by
  rw [decodePacket, packetAddr_mkPacket, packetValue_mkPacket]
  fin_cases r <;> rfl

/-- The digit addresses are the digit registers of the eight rows (20 R42). -/
theorem isDigitAddress_iff {a : Byte} : isDigitAddress a = true ↔ ∃ r, a = digitReg r := by
  rw [isDigitAddress, decide_eq_true_iff]
  constructor
  · rintro ⟨h1, h8⟩
    exact ⟨⟨a.toNat - 1, by omega⟩, BitVec.eq_of_toNat_eq (by simp [digitReg]; omega)⟩
  · rintro ⟨r, rfl⟩
    simp [digitReg]
    omega

@[simp] theorem mkPacket_fields (w : PacketWord) : mkPacket (packetAddr w) (packetValue w) = w := by
  rw [mkPacket, packetAddr, packetValue, BitVec.extractLsb'_append_extractLsb'_eq_extractLsb' (by decide)]
  exact BitVec.extractLsb'_eq_self

/-! ### Decoding an encoding (30 R62 to R72) -/

theorem toInt_ofInt_of_inSigned16 {x : Int} (h : inSigned16 x = true) : (BitVec.ofInt 16 x).toInt = x := by
  obtain ⟨hlo, hhi⟩ := of_decide_eq_true h
  exact BitVec.toInt_ofInt_eq_self (by decide) hlo (by omega)

theorem toNat_ofNat_of_inUnsigned16 {n : Nat} (h : inUnsigned16 n = true) : (BitVec.ofNat 16 n).toNat = n := by
  have hn : n ≤ 65535 := of_decide_eq_true h
  exact Nat.mod_eq_of_lt (by omega)

/-- Format P's value bit holds the operand it was made of (30 R65). -/
theorem getLsbD_zero_valueBit (on : Bool) : (if on then 1 else 0 : BitVec 64).getLsbD 0 = on := by
  cases on <;> rfl

/-- The two signed operands of formats P and B come back from their fields (30 R65, R66). -/
theorem toInt_fields_of_inSigned16 {x y : Int} (h : (inSigned16 x && inSigned16 y) = true) :
    (BitVec.ofInt 16 x).toInt = x ∧ (BitVec.ofInt 16 y).toInt = y := by
  obtain ⟨hx, hy⟩ := Bool.and_eq_true_iff.1 h
  exact ⟨toInt_ofInt_of_inSigned16 hx, toInt_ofInt_of_inSigned16 hy⟩

/-- Settles O2: a command's operands come back from 16-bit fields because they are in range, a digit packet by its row, a
configuration packet because the addresses are apart. -/
theorem decodeInvertsEncode : Obligations.DecodeInvertsEncode := by
  intro c i hc hi
  cases i with
  | init n => rw [encode, decode, decodeCommand_init, toNat_ofNat_of_inUnsigned16 hi]
  | setPixel x y on =>
    obtain ⟨hx, hy⟩ := toInt_fields_of_inSigned16 hi
    rw [encode, decode, decodeCommand_setPixel, hx, hy, getLsbD_zero_valueBit]
  | getPixel x y =>
    obtain ⟨hx, hy⟩ := toInt_fields_of_inSigned16 hi
    rw [encode, decode, decodeCommand_getPixel, hx, hy]
  | togglePixel x y =>
    obtain ⟨hx, hy⟩ := toInt_fields_of_inSigned16 hi
    rw [encode, decode, decodeCommand_togglePixel, hx, hy]
  | clear => exact decodeCommand_clear 0 0 0
  | blit ox oy sprite =>
    obtain ⟨hx, hy⟩ := toInt_fields_of_inSigned16 hi
    rw [encode, decode, decodeCommand_blit, hx, hy]
  | digit0 v => exact decodePacket_digitReg c 0 v
  | digit1 v => exact decodePacket_digitReg c 1 v
  | digit2 v => exact decodePacket_digitReg c 2 v
  | digit3 v => exact decodePacket_digitReg c 3 v
  | digit4 v => exact decodePacket_digitReg c 4 v
  | digit5 v => exact decodePacket_digitReg c 5 v
  | digit6 v => exact decodePacket_digitReg c 6 v
  | digit7 v => exact decodePacket_digitReg c 7 v
  | scanLimit v =>
    obtain ⟨hscan, -⟩ := decodePacket_configRegisters v hc
    exact hscan
  | displayTest v =>
    obtain ⟨-, htest, -⟩ := decodePacket_configRegisters v hc
    exact htest
  | decodeMode v =>
    obtain ⟨-, -, hmode, -⟩ := decodePacket_configRegisters v hc
    exact hmode
  | intensity v =>
    obtain ⟨-, -, -, hintensity, -⟩ := decodePacket_configRegisters v hc
    exact hintensity
  | shutdown v =>
    obtain ⟨-, -, -, -, hshutdown⟩ := decodePacket_configRegisters v hc
    exact hshutdown

/-! ### What the decoders refuse (30 R68, R73) -/

/-- A command word is refused by its own opcode, and only outside 1..6 (30 R67, R68). -/
theorem decodeCommand_reserved_iff {w : CommandWord} {op : Byte} :
    decodeCommand w = .reservedOpcode op ↔ op = opField w ∧ (opField w = 0x00#8 ∨ 7 ≤ (opField w).toNat) := by
  have hzero : opField w = 0x00#8 ↔ (opField w).toNat = 0 := BitVec.toNat_eq
  rw [hzero, decodeCommand]
  split
  case h_7 h1 h2 h3 h4 h5 h6 =>
    simp only [imp_false] at h1 h2 h3 h4 h5 h6
    have hreserved : (opField w).toNat = 0 ∨ 7 ≤ (opField w).toNat := by omega
    rw [and_iff_left hreserved, Decoded.reservedOpcode.injEq, eq_comm]
  -- The six opcodes of R67 have an instruction, and each is a number in 1..6.
  all_goals simp [*]

/-- A packet word is refused by its own address, and only when that is no register of a chip (30 R72, R73; log 21). -/
theorem decodePacket_mkPacket_unknown_iff {c : Config} {a a' v : Byte} :
    decodePacket c (mkPacket a v) = .unknownPacketAddress a' ↔ a' = a ∧ isChipRegister c a = false := by
  cases hdigit : isDigitAddress a with
  | true =>
    obtain ⟨r, rfl⟩ := isDigitAddress_iff.1 hdigit
    simp [decodePacket_digitReg, isChipRegister_digitReg]
  | false =>
    have hregister : isChipRegister c a = false ↔ a ≠ c.regScanLimit ∧ a ≠ c.regDisplayTest ∧ a ≠ c.regDecodeMode ∧
        a ≠ c.regIntensity ∧ a ≠ c.regShutdown := by
      simp [isChipRegister, hdigit, Config.configAddresses]
    rw [decodePacket_of_not_digit c v hdigit, hregister]
    split_ifs <;> simp [*, eq_comm]

theorem decodePacket_unknown_iff {c : Config} {w : PacketWord} {a : Byte} :
    decodePacket c w = .unknownPacketAddress a ↔ a = packetAddr w ∧ isChipRegister c (packetAddr w) = false := by
  rw [← decodePacket_mkPacket_unknown_iff (v := packetValue w), mkPacket_fields]

/-- Settles O3: each decoder's refusal, its name and its reason, is is one `↔` for all words. -/
theorem reservedWordsRefused : Obligations.ReservedWordsRefused := by
  refine ⟨fun w => ?_, fun w op h => (decodeCommand_reserved_iff.1 h).1, fun c w => ?_,
    fun c w a h => (decodePacket_unknown_iff.1 h).1⟩
  · simp only [decodeCommand_reserved_iff, exists_eq_left]
  · simp only [decodePacket_unknown_iff, exists_eq_left]

end Sys2Proof

namespace Sys2Proof.Machine

/-! ### The rows of a sprite (30 R66) -/

/-- Settles O5: bit `7 - c` of the byte that begins at bit `56 - 8r` is bit `63 - 8r - c`. -/
theorem spriteRowIsByte : Obligations.SpriteRowIsByte := by
  intro p r c
  have hindex : 56 - 8 * r.val + (7 - c.val) = 63 - 8 * r.val - c.val := by omega
  have hwidth : 7 - c.val < 8 := by omega
  refine ⟨?_, rfl, rfl, rfl⟩
  rw [BitVec.getLsbD_extractLsb', hindex, spriteBit, decide_eq_true hwidth, Bool.true_and]

/-! ### A packet sent alone (43 R125) -/

/-- SendPacket when every call returns: the address, then the value (20 R47). -/
theorem State.sendPacket_returns {s : State} (a v : Byte) (hr : s.tpReady = true) (hc : s.tpCredit = none) :
    s.sendPacket a v = .next (s.emits [.send a, .send v]) := by
  rw [State.sendPacket, sendPacketSteps, runSteps_tpSend hr hc, runSteps_tpSend (by exact hr) (by exact hc),
    runSteps_nil, State.emits_cons, State.emits_singleton]

/-- Settles O19: each packet kind is SendPacket of its register's address. -/
theorem packetsSendAddressThenValue : Obligations.PacketsSendAddressThenValue := by
  intro s v hr hc
  have hsend := fun a => State.sendPacket_returns a v hr hc
  exact ⟨hsend _, hsend _, hsend _, hsend _, hsend _, hsend _, hsend _, hsend _, hsend _, hsend _, hsend _, hsend _,
    hsend _⟩

/-! ### What no primitive step sees (30 R61) -/

/-- An update of the state that every operation of the primitive steps commutes with, and that touches nothing they read. -/
structure Invisible (f : State → State) : Prop where
  fbExists (s : State) (d : Nat) : (f s).fbExists d = s.fbExists d
  fbByte (s : State) (r : Fin 8) (d : Nat) : (f s).fbByte r d = s.fbByte r d
  tpReady (s : State) : (f s).tpReady = s.tpReady
  tpCredit (s : State) : (f s).tpCredit = s.tpCredit
  writeN (s : State) (n : Byte) : { f s with n := n } = f { s with n := n }
  setMode (s : State) (m : Mode) : { f s with mode := m } = f { s with mode := m }
  fbStore (s : State) (r : Fin 8) (d : Nat) (v : Byte) : (f s).fbStore r d v = f (s.fbStore r d v)
  respond (s : State) (b : Bool) : (f s).respond b = f (s.respond b)
  raise (s : State) (g : FaultFlag) : (f s).raise g = f (s.raise g)
  emit (s : State) (e : Event) : (f s).emit e = f (s.emit e)
  spend (s : State) (k : Option Nat) : { f s with tpCredit := k } = f { s with tpCredit := k }
  setUp (s : State) : { f s with tpReady := true } = f { s with tpReady := true }
  load (s : State) (q : List SeqStep) : { f s with seq := q } = f { s with seq := q }

theorem StepResult.mapDone_done (f : State → State) (s : State) : (StepResult.done s).mapDone f = .done (f s) := rfl
theorem StepResult.mapDone_wait (f : State → State) : StepResult.wait.mapDone f = .wait := rfl
theorem StepResult.mapDone_stop (f : State → State) (r : Fault) : (StepResult.stop r).mapDone f = .stop r := rfl

section
variable {f : State → State} (hf : Invisible f)
include hf

theorem Invisible.fbModify (s : State) (r : Fin 8) (d : Nat) (g : Byte → Byte) :
    (f s).fbModify r d g = (s.fbModify r d g).mapDone f := by
  simp only [State.fbModify, hf.fbExists, hf.fbByte, hf.fbStore, apply_ite (StepResult.mapDone f),
    StepResult.mapDone_done, StepResult.mapDone_stop]

theorem Invisible.tpCall (s : State) (e : Event) : (f s).tpCall e = (s.tpCall e).mapDone f := by
  simp only [State.tpCall, hf.tpCredit, hf.spend, hf.emit, apply_ite (StepResult.mapDone f), StepResult.mapDone_done,
    StepResult.mapDone_wait]

theorem Invisible.tpTraffic (s : State) (e : Event) : (f s).tpTraffic e = (s.tpTraffic e).mapDone f := by
  simp only [State.tpTraffic, hf.tpReady, hf.tpCall, apply_ite (StepResult.mapDone f), StepResult.mapDone_stop]

theorem Invisible.tpInit (s : State) : (f s).tpInit = s.tpInit.mapDone f := by
  rw [State.tpInit, State.tpInit, hf.tpCall]
  cases s.tpCall .init with
  | done t => exact congrArg StepResult.done (hf.setUp t)
  | wait => rfl
  | stop r => rfl

/-- A primitive step does the same to the updated state. -/
theorem Invisible.act (op : SeqStep) (s : State) : op.act (f s) = (op.act s).mapDone f := by
  cases op with
  | writeN n => exact congrArg StepResult.done (hf.writeN s n)
  | setMode m => exact congrArg StepResult.done (hf.setMode s m)
  | fbZero r d => exact hf.fbModify s r d fun _ => 0#8
  | fbPut r d k on => exact hf.fbModify s r d _
  | fbFlip r d k => exact hf.fbModify s r d _
  | respond b => exact congrArg StepResult.done (hf.respond s b)
  | respondPixel r d k =>
    simp only [SeqStep.act, hf.fbExists, hf.fbByte, hf.respond, apply_ite (StepResult.mapDone f),
      StepResult.mapDone_done, StepResult.mapDone_stop]
  | raise g => exact congrArg StepResult.done (hf.raise s g)
  | tpInit => exact hf.tpInit s
  | tpSend b => exact hf.tpTraffic s _
  | tpSendFb r d =>
    simp only [SeqStep.act, hf.fbExists, hf.fbByte, hf.tpTraffic, apply_ite (StepResult.mapDone f),
      StepResult.mapDone_stop]
  | tpLatch => exact hf.tpTraffic s _
  | finish => rfl

/-- So does a run of steps; one that waits leaves the same steps to be done. -/
theorem Invisible.runSteps (hseq : ∀ s, (f s).seq = s.seq) (ops : List SeqStep) (s : State) :
    runSteps ops (f s) = mapNext f (runSteps ops s) := by
  induction ops generalizing s with
  | nil => rfl
  | cons op ops ih =>
    rw [Machine.runSteps, Machine.runSteps, hf.act]
    cases op.act s with
    | done t => exact ih t
    | wait => exact congrArg Host.Outcome.next (by rw [hseq, hf.load])
    | stop r => rfl

end

/-- No primitive step looks at the words the host presents (30 R60, R61). -/
theorem invisible_host (ws : List CommandWord) : Invisible fun s => { s with host := ws } where
  fbExists _ _ := rfl
  fbByte _ _ _ := rfl
  tpReady _ := rfl
  tpCredit _ := rfl
  writeN _ _ := rfl
  setMode _ _ := rfl
  fbStore _ _ _ _ := rfl
  respond _ _ := rfl
  raise _ g := by cases g <;> rfl
  emit _ _ := rfl
  spend _ _ := rfl
  setUp _ := rfl
  load _ _ := rfl

theorem step_busy {s : State} (hr : s.rst = false) (he : s.enc = none) (hq : s.seq ≠ []) : step s = s.resume := by
  rw [step, State.fetch_busy hr he hq]

/-- Settles O11: a busy block accepts no command, and the steps it goes on with do not see the host's words. -/
theorem busyBlockIgnoresCommands : Obligations.BusyBlockIgnoresCommands := by
  refine ⟨fun i s hi hq => ?_, fun s ws hr he hq => ?_⟩
  · rw [exec_command i s hi, State.accept_busy s _ hq]
  · rw [step_busy hr he hq, step_busy (s := { s with host := ws }) hr he hq]
    exact (invisible_host ws).runSteps (fun _ => rfl) s.seq { s with seq := [] }

end Sys2Proof.Machine
end

section
/-!
PROOFS. The pixel address decoder family: the address function and its inverse (40 R84), the decoder on 16-bit words (40 R85),
and the pixel commands on a coordinate out of range (40 R83).
-/

namespace Sys2Proof.Machine

/-! ### The address function and its inverse (40 R84) -/

theorem coord_address_of_valid {n : Byte} {x y : Int} (h : valid n x y = true) : (address x y).coord = (x, y) := by
  obtain ⟨-, -, hy, hx⟩ := locate_eq_some (locate_of_valid h)
  exact Prod.ext hx.symm hy

theorem address_device_lt {n : Byte} {x y : Int} (h : valid n x y = true) : (address x y).device < n.toNat :=
  (locate_device_lt (locate_of_valid h)).1

theorem valid_coord {n : Byte} {p : PixelAddr} (h : p.device < n.toNat) : valid n p.coord.1 p.coord.2 = true := by
  rw [valid_iff, PixelAddr.coord]
  omega

theorem coord_fst_toNat (p : PixelAddr) : p.coord.1.toNat = 8 * p.device + (7 - p.bit.val) := by
  rw [PixelAddr.coord]
  omega

theorem PixelAddr.eq_of_fields {p q : PixelAddr} (hrow : p.row.val = q.row.val) (hdevice : p.device = q.device)
    (hbit : p.bit.val = q.bit.val) : p = q := by
  rw [PixelAddr.mk.injEq]
  exact ⟨Fin.ext hrow, hdevice, Fin.ext hbit⟩

theorem address_coord (p : PixelAddr) : address p.coord.1 p.coord.2 = p := by
  refine PixelAddr.eq_of_fields ?_ ?_ ?_
  · exact Nat.mod_eq_of_lt p.row.isLt
  · rw [address_device, coord_fst_toNat]
    omega
  · rw [address_bit_val, coord_fst_toNat]
    omega

theorem address_row_inj {n : Byte} {x y x' y' : Int} (h : valid n x y = true) (h' : valid n x' y' = true) :
    (address x y).row = (address x' y').row ↔ y = y' := by
  obtain ⟨-, -, hy, -⟩ := locate_eq_some (locate_of_valid h)
  obtain ⟨-, -, hy', -⟩ := locate_eq_some (locate_of_valid h')
  rw [Fin.ext_iff]
  omega

theorem address_device_inj {n : Byte} {x y x' y' : Int} (h : valid n x y = true) (h' : valid n x' y' = true) :
    (address x y).device = (address x' y').device ↔ x / 8 = x' / 8 := by
  obtain ⟨hx, -⟩ := valid_iff.1 h
  obtain ⟨hx', -⟩ := valid_iff.1 h'
  rw [address_device, address_device]
  omega

/-- Along a row the device index ascends, and inside a device the bit number descends. -/
theorem lt_iff_address_lt {n : Byte} {x x' y : Int} (h : valid n x y = true) (h' : valid n x' y = true) :
    x < x' ↔ (address x y).device < (address x' y).device ∨
      (address x y).device = (address x' y).device ∧ (address x' y).bit < (address x y).bit := by
  obtain ⟨-, -, -, hx⟩ := locate_eq_some (locate_of_valid h)
  obtain ⟨-, -, -, hx'⟩ := locate_eq_some (locate_of_valid h')
  rw [Fin.lt_def]
  omega

/-- Settles O6: `address` and `coord` are inverse both ways, and each field of the address is a digit of the coordinate. -/
theorem addressIsBijection : Obligations.AddressIsBijection :=
  ⟨fun _ _ _ h => ⟨address_device_lt h, coord_address_of_valid h⟩,
    fun _ p h => ⟨valid_coord h, address_coord p⟩,
    fun _ _ _ _ _ h h' => and_congr (address_row_inj h h') (address_device_inj h h'),
    fun _ _ _ _ h h' => lt_iff_address_lt h h'⟩

/-! ### The decoder on 16-bit words (40 R85) -/

theorem toNat_extractLsb'_high (w : BitVec 16) : (w.extractLsb' 3 13).toNat = w.toNat / 8 := by
  rw [BitVec.extractLsb'_toNat, Nat.shiftRight_eq_div_pow]
  omega

theorem toNat_extractLsb'_low (w : BitVec 16) : (w.extractLsb' 0 3).toNat = w.toNat % 8 := by
  rw [BitVec.extractLsb'_toNat, Nat.shiftRight_zero]

/-- A signed word lies in `[0, b)` iff its sign bit is clear and its unsigned value is below `b`. -/
theorem toInt_range_iff (w : BitVec 16) (b : Int) :
    0 ≤ w.toInt ∧ w.toInt < b ↔ w.toNat < 32768 ∧ (w.toNat : Int) < b := by
  rw [BitVec.toInt_eq_toNat_cond]
  split <;> omega

theorem validBits_iff {n : Byte} {xw yw : BitVec 16} :
    validBits n xw yw = true ↔ xw.toNat < 32768 ∧ xw.toNat / 8 < n.toNat ∧ yw.toNat < 8 := by
  have hy : yw.extractLsb' 3 13 = 0#13 ↔ yw.toNat < 8 := by
    rw [BitVec.toNat_eq, toNat_extractLsb'_high, BitVec.toNat_ofNat]
    omega
  simp only [validBits, Bool.and_eq_true, Bool.not_eq_true', decide_eq_true_eq, BitVec.msb_eq_false_iff_two_mul_lt,
    toNat_extractLsb'_high, hy]
  omega

theorem valid_toInt_iff {n : Byte} {xw yw : BitVec 16} :
    valid n xw.toInt yw.toInt = true ↔ xw.toNat < 32768 ∧ xw.toNat / 8 < n.toNat ∧ yw.toNat < 8 := by
  rw [valid_iff, ← and_assoc, toInt_range_iff, toInt_range_iff]
  omega

theorem addressBits_of_valid {n : Byte} {xw yw : BitVec 16} (h : valid n xw.toInt yw.toInt = true) :
    addressBits xw yw = address xw.toInt yw.toInt := by
  obtain ⟨hx, -, hy⟩ := valid_toInt_iff.1 h
  have hxInt : xw.toInt = xw.toNat := BitVec.toInt_eq_toNat_of_lt (by omega)
  have hyInt : yw.toInt = yw.toNat := BitVec.toInt_eq_toNat_of_lt (by omega)
  rw [hxInt, hyInt, addressBits, BitVec.toNat_not, toNat_extractLsb'_high, toNat_extractLsb'_low, toNat_extractLsb'_low,
    Nat.mod_eq_of_lt hy]
  rfl

/-- Settles O7: both range checks are the same bounds on the unsigned words, under which each word is its own integer. -/
theorem bitLevelDecoderAgrees : Obligations.BitLevelDecoderAgrees := fun _ _ _ =>
  ⟨Bool.eq_iff_iff.2 (validBits_iff.trans valid_toInt_iff.symm), addressBits_of_valid⟩

/-! ### Coordinates out of range (40 R83) -/

theorem setPixSteps_of_invalid {n : Byte} {x y : Int} (h : valid n x y = false) (on : Bool) :
    setPixSteps n x y on = [] := by
  rw [setPixSteps, locate_of_invalid h]

theorem togglePixSteps_of_invalid {n : Byte} {x y : Int} (h : valid n x y = false) : togglePixSteps n x y = [] := by
  rw [togglePixSteps, locate_of_invalid h]

theorem getPixSteps_of_invalid {n : Byte} {x y : Int} (h : valid n x y = false) :
    getPixSteps n x y = [.respond false] := by
  rw [getPixSteps, locate_of_invalid h]

theorem operSteps_of_oper {s : State} (h : s.mode = .oper) (q : List SeqStep) : operSteps s q = q := if_pos h

theorem getPixelSteps_of_oper {s : State} (h : s.mode = .oper) (x y : Int) :
    getPixelSteps s x y = getPixSteps s.n x y := if_pos h

/-- Settles O8: out of range the two writes have no step to run and GET_PIXEL only its response. -/
theorem outOfRangeIsSilent : Obligations.OutOfRangeIsSilent := by
  intro s x y on hq hm hv
  refine ⟨locate_of_invalid hv, ?_, ?_, ?_⟩ <;> rw [exec_idle _ s hq, stepList]
  · rw [setPixelSteps, operSteps_of_oper hm, setPixSteps_of_invalid hv, runSteps_nil]
  · rw [togglePixelSteps, operSteps_of_oper hm, togglePixSteps_of_invalid hv, runSteps_nil]
  · rw [getPixelSteps_of_oper hm, getPixSteps_of_invalid hv, runSteps_cons_done rfl, runSteps_nil]

end Sys2Proof.Machine
end

section
/-!
PROOFS. The canvas family, first part: what SET_PIXEL, TOGGLE_PIXEL, CLEAR and GET_PIXEL do when every call returns (41 R91 to
R97), and the laws that follow (41 R96, R99).
-/

/- As in the state family above: these proofs too are elaborated one after another, for the memory limit of the check. -/
set_option deprecated.oldSectionVars true

namespace Sys2Proof.Machine

/-! ### Bytes and bits -/

theorem byte_ext {b c : Byte} (h : ∀ i : Fin 8, b.getLsbD i.val = c.getLsbD i.val) : b = c :=
  BitVec.eq_of_getLsbD_eq fun i hi => h ⟨i, hi⟩

/-- Flipping a bit is putting its complement (41 R96). -/
theorem flipBit_eq_putBit (k : Fin 8) (b : Byte) : flipBit k b = putBit k (!b.getLsbD k.val) b := by
  refine byte_ext fun i => ?_
  rw [flipBit_getLsbD, putBit_getLsbD]
  split
  · rename_i hi
    rw [hi]
  · rfl

theorem flipBit_flipBit (k : Fin 8) (b : Byte) : flipBit k (flipBit k b) = b := by
  rw [flipBit, flipBit, BitVec.xor_assoc, BitVec.xor_self, BitVec.xor_zero]

/-! ### The memory -/

/-- A byte written over and then put back leaves a canonical memory as it was. -/
theorem memWrite_restore {m : List Host.Cell} (hw : memWf m = true) (a : Nat) (v : Byte) :
    memWrite (memWrite m a v) a (memRead m a) = m := by
  have hw' := memWf_memWrite a v hw
  refine memWf_ext (memWf_memWrite _ _ hw') hw fun b => ?_
  rw [memRead_memWrite _ _ _ hw', memRead_memWrite _ _ _ hw]
  split
  · rename_i hb
    rw [hb]
  · rfl

/-- A memory with 0x00 written at each address of a list. -/
def zeroBytes (as : List Nat) (m : List Host.Cell) : List Host.Cell := as.foldl (fun m a => memWrite m a 0#8) m

theorem memRead_zeroBytes {m : List Host.Cell} (hw : memWf m = true) (as : List Nat) (b : Nat) :
    memRead (zeroBytes as m) b = if b ∈ as then 0#8 else memRead m b := by
  induction as generalizing m with
  | nil => rfl
  | cons a as ih =>
    have hhead : zeroBytes (a :: as) m = zeroBytes as (memWrite m a 0#8) := rfl
    rw [hhead, ih (memWf_memWrite a _ hw), memRead_memWrite _ _ _ hw]
    by_cases hb : b = a <;> simp [hb]

/-- The addresses of the bytes of FB, in the order in which CLEAR and INIT zero them (41 R97). -/
def fbAddrs (n : Byte) : List Nat := rows.flatMap fun r => (List.range n.toNat).map fun d => fbAddr r d

theorem mem_rows (r : Fin 8) : r ∈ rows := by
  revert r
  decide

theorem mem_fbAddrs_iff {s : State} {a : Nat} : a ∈ fbAddrs s.n ↔ s.IsFbAddr a := by
  simp [fbAddrs, State.IsFbAddr, mem_rows, eq_comm]

/-- FB with every byte 0x00 (41 R97). -/
def State.zeroFb (s : State) : State := { s with fb := zeroBytes (fbAddrs s.n) s.fb }

theorem State.fbByte_zeroFb {s : State} (hw : memWf s.fb = true) {d : Nat} (hd : d < s.n.toNat) (r : Fin 8) :
    s.zeroFb.fbByte r d = 0#8 := by
  show memRead (zeroBytes (fbAddrs s.n) s.fb) (fbAddr r d) = 0#8
  rw [memRead_zeroBytes hw, if_pos (mem_fbAddrs_iff.2 ⟨r, d, hd, rfl⟩)]

/-- Zeroing FB leaves every other address (10 R23). -/
theorem State.memRead_zeroFb {s : State} (hw : memWf s.fb = true) {a : Nat} (ha : ¬ s.IsFbAddr a) :
    memRead s.zeroFb.fb a = memRead s.fb a := by
  show memRead (zeroBytes (fbAddrs s.n) s.fb) a = _
  rw [memRead_zeroBytes hw, if_neg (mt mem_fbAddrs_iff.1 ha)]

/-! ### Runs when every call returns -/

/-- The steps of SetPix in range are its write, done, and then the sync of the row (41 R91). -/
theorem runSteps_setPixSteps_of_locate {s : State} {x y : Int} {p : PixelAddr} (h : locate s.n x y = some p) (on : Bool) :
    runSteps (setPixSteps s.n x y on) s = runSteps (rowSyncSteps s.n p.row)
      (s.fbStore p.row p.device (putBit p.bit on (s.fbByte p.row p.device))) := by
  rw [setPixSteps, h]
  exact runSteps_cons_done (State.fbModify_of_lt _ (locate_device_lt h).1)

/-- The steps of a toggle in range are its flip, done, and then the sync of the row (41 R95). -/
theorem runSteps_togglePixSteps_of_locate {s : State} {x y : Int} {p : PixelAddr} (h : locate s.n x y = some p) :
    runSteps (togglePixSteps s.n x y) s = runSteps (rowSyncSteps s.n p.row)
      (s.fbStore p.row p.device (flipBit p.bit (s.fbByte p.row p.device))) := by
  rw [togglePixSteps, h]
  exact runSteps_cons_done (State.fbModify_of_lt _ (locate_device_lt h).1)

theorem State.setPix_of_invalid {s : State} {x y : Int} (h : valid s.n x y = false) (on : Bool) : s.setPix x y on = s := by
  rw [State.setPix, locate_of_invalid h]

theorem State.setPix_of_locate {s : State} {x y : Int} {p : PixelAddr} (h : locate s.n x y = some p) (on : Bool) :
    s.setPix x y on = s.storeAndSync p.row p.device (putBit p.bit on (s.fbByte p.row p.device)) := by
  rw [State.setPix, h]

theorem State.flipPix_of_locate {s : State} {x y : Int} {p : PixelAddr} (h : locate s.n x y = some p) :
    s.flipPix x y = s.storeAndSync p.row p.device (flipBit p.bit (s.fbByte p.row p.device)) := by
  rw [State.flipPix, h]

/-- SetPix, once for all callers (41 R91). -/
theorem runSteps_setPix {s : State} (x y : Int) (on : Bool) (hr : s.tpReady = true) (hc : s.tpCredit = none) :
    runSteps (setPixSteps s.n x y on) s = .next (s.setPix x y on) := by
  cases hl : locate s.n x y with
  | none => rw [setPixSteps, State.setPix, hl, runSteps_nil]
  | some p =>
    rw [runSteps_setPixSteps_of_locate hl, State.setPix_of_locate hl]
    exact runSteps_rowSync (s := s.fbStore _ _ _) p.row hr hc

theorem runSteps_togglePix {s : State} (x y : Int) (hr : s.tpReady = true) (hc : s.tpCredit = none) :
    runSteps (togglePixSteps s.n x y) s = .next (s.flipPix x y) := by
  cases hl : locate s.n x y with
  | none => rw [togglePixSteps, State.flipPix, hl, runSteps_nil]
  | some p =>
    rw [runSteps_togglePixSteps_of_locate hl, State.flipPix_of_locate hl]
    exact runSteps_rowSync (s := s.fbStore _ _ _) p.row hr hc

/-- Zeroing makes no call: it is done, whatever the Transfer Primitive does. -/
theorem runSteps_fbZeros {s : State} (ps : List (Fin 8 × Nat)) (hps : ∀ p ∈ ps, p.2 < s.n.toNat) :
    runSteps (ps.map fun p => .fbZero p.1 p.2) s =
      .next { s with fb := zeroBytes (ps.map fun p => fbAddr p.1 p.2) s.fb } := by
  induction ps generalizing s with
  | nil => rfl
  | cons p ps ih =>
    have hact : (SeqStep.fbZero p.1 p.2).act s = .done (s.fbStore p.1 p.2 0#8) :=
      State.fbModify_of_lt (fun _ => 0#8) (hps p (by simp))
    rw [List.map_cons, runSteps_cons_done hact, ih (by simpa using fun a b h => hps (a, b) (by simp [h]))]
    rfl

theorem runSteps_zeroSteps (s : State) :
    runSteps (zeroSteps s.n) s = .next s.zeroFb := by
  have hsteps : zeroSteps s.n =
      (rows.flatMap fun r => (List.range s.n.toNat).map fun d => (r, d)).map fun p => .fbZero p.1 p.2 := by
    simp [zeroSteps, List.map_flatMap, Function.comp_def]
  have haddrs : fbAddrs s.n =
      (rows.flatMap fun r => (List.range s.n.toNat).map fun d => (r, d)).map fun p => fbAddr p.1 p.2 := by
    simp [fbAddrs, List.map_flatMap, Function.comp_def]
  rw [hsteps, State.zeroFb, haddrs]
  refine runSteps_fbZeros _ fun p hp => ?_
  obtain ⟨r, -, hp⟩ := List.mem_flatMap.1 hp
  obtain ⟨d, hd, rfl⟩ := List.mem_map.1 hp
  exact List.mem_range.1 hd

/-- Row syncs one after another. -/
theorem runSteps_rowSyncs {s : State} (rs : List (Fin 8)) (hr : s.tpReady = true) (hc : s.tpCredit = none) :
    runSteps (rs.flatMap (rowSyncSteps s.n)) s = .next (s.emits (rs.flatMap s.rowSyncEvents)) := by
  induction rs generalizing s with
  | nil => rw [List.flatMap_nil, List.flatMap_nil, runSteps_nil, State.emits_nil]
  | cons r rs ih =>
    rw [List.flatMap_cons, runSteps_append hc (runSteps_rowSync r hr hc), List.flatMap_cons, ← State.emits_emits]
    exact ih (s := s.emits (s.rowSyncEvents r)) hr hc

/-- A row of zeros is sent as equal packets (41 R97). -/
theorem State.rowSyncEvents_of_zero {s : State} {r : Fin 8} (h : ∀ d, d < s.n.toNat → s.fbByte r d = 0#8) :
    s.rowSyncEvents r = equalPackets s.n.toNat (digitReg r) 0#8 := by
  have hpackets : (devicesDown s.n).map (fun d => packetEvents (digitReg r) (s.fbByte r d)) =
      List.replicate s.n.toNat (packetEvents (digitReg r) 0#8) := by
    refine List.eq_replicate_iff.2 ⟨by simp [devicesDown], fun es hes => ?_⟩
    obtain ⟨d, hd, rfl⟩ := List.mem_map.1 hes
    rw [h d (by simpa [devicesDown] using hd)]
  rw [State.rowSyncEvents, equalPackets, List.flatMap_def, hpackets]

/-- ClearAll, once for all callers (41 R97). -/
theorem runSteps_clearAll {s : State} (hw : memWf s.fb = true) (hr : s.tpReady = true) (hc : s.tpCredit = none) :
    runSteps (clearAllSteps s.n) s = .next (s.zeroFb.emits (clearEvents s.n.toNat)) := by
  have hrow : ∀ r, s.zeroFb.rowSyncEvents r = equalPackets s.n.toNat (digitReg r) 0#8 := fun r =>
    State.rowSyncEvents_of_zero fun _ hd => State.fbByte_zeroFb hw hd r
  have hevents : rows.flatMap s.zeroFb.rowSyncEvents = clearEvents s.n.toNat :=
    congrArg rows.flatMap (funext hrow)
  rw [clearAllSteps, runSteps_append hc (runSteps_zeroSteps s), ← hevents]
  exact runSteps_rowSyncs (s := s.zeroFb) rows hr hc

/-- The response of GET_PIXEL in OPER needs no call (41 R93, R94). -/
theorem runSteps_getPix (s : State) (x y : Int) :
    runSteps (getPixSteps s.n x y) s = .next (s.respond (s.pixelOn x y)) := by
  rw [getPixSteps, State.pixelOn]
  cases hl : locate s.n x y with
  | none => rfl
  | some p => exact runSteps_cons_done (SeqStep.act_respondPixel (locate_device_lt hl).1 p.row p.bit)

/-! ### The results of the four commands -/

/-- Settles O12: in OPER the command is its SetPix. -/
theorem setPixelResult : Obligations.SetPixelResult := by
  rintro s x y on ⟨hq, hm, hr, hc⟩
  rw [exec_idle _ s hq, stepList, setPixelSteps, operSteps_of_oper hm, runSteps_setPix x y on hr hc]

/-- Settles O13: in OPER the command is its flip and row sync. -/
theorem togglePixelResult : Obligations.TogglePixelResult := by
  rintro s x y ⟨hq, hm, hr, hc⟩
  rw [exec_idle _ s hq, stepList, togglePixelSteps, operSteps_of_oper hm, runSteps_togglePix x y hr hc]

/-- Settles O14: in OPER the command is one response. -/
theorem getPixelResult : Obligations.GetPixelResult := by
  intro s x y hq hm
  rw [exec_idle _ s hq, stepList, getPixelSteps_of_oper hm, runSteps_getPix]

theorem exec_clear_of_ready {s : State} (hs : s.Ready) (hw : memWf s.fb = true) :
    exec .clear s = .next (s.zeroFb.emits (clearEvents s.n.toNat)) := by
  obtain ⟨hq, hm, hr, hc⟩ := hs
  rw [exec_idle _ s hq, stepList, clearSteps, operSteps_of_oper hm, runSteps_clearAll hw hr hc]

/-- Settles O15: the bytes zeroed are exactly those of FB. -/
theorem clearResult : Obligations.ClearResult := fun _ hs hw =>
  ⟨_, exec_clear_of_ready hs hw, fun r _ hd => State.fbByte_zeroFb hw hd r, fun _ ha => State.memRead_zeroFb hw ha⟩

/-- Settles O48: a busy block ignores the command, in OPER it responds, elsewhere it responds 0 and raises `F_SEQ`. -/
theorem getPixelFrame : Obligations.GetPixelFrame := by
  intro s t x y h
  by_cases hq : s.seq = []
  · by_cases hm : s.mode = .oper
    · rw [getPixelResult s x y hq hm] at h
      cases h
      exact ⟨rfl, fun _ => rfl⟩
    · have hsteps : getPixelSteps s x y = [.respond false, .raise .seq] := if_neg hm
      rw [exec_idle _ s hq, stepList, hsteps] at h
      cases h
      exact ⟨rfl, fun ho => absurd ho hm⟩
  · rw [exec_command _ s rfl, State.accept_busy _ _ hq] at h
    cases h
    exact ⟨rfl, fun _ => rfl⟩

/-! ### Pixels after a pixel write -/

/-- TOGGLE_PIXEL has the effect of SET_PIXEL to the complement, out of range too (41 R96). -/
theorem State.flipPix_eq_setPix (s : State) (x y : Int) : s.flipPix x y = s.setPix x y (!s.pixelOn x y) := by
  rw [State.flipPix, State.setPix, State.pixelOn]
  cases locate s.n x y with
  | none => rfl
  | some p => exact congrArg (s.storeAndSync p.row p.device) (flipBit_eq_putBit _ _)

@[simp] theorem State.setPix_n (s : State) (x y : Int) (on : Bool) : (s.setPix x y on).n = s.n := by
  rw [State.setPix]
  split <;> rfl

theorem State.Ready.setPix {s : State} (hs : s.Ready) (x y : Int) (on : Bool) : (s.setPix x y on).Ready := by
  rw [State.setPix]
  split <;> exact hs

theorem State.memWf_setPix {s : State} (hw : memWf s.fb = true) (x y : Int) (on : Bool) :
    memWf (s.setPix x y on).fb = true := by
  rw [State.setPix]
  split
  · exact hw
  · exact memWf_memWrite _ _ hw

/-- FB bit by bit after SetPix (41 R91). -/
theorem State.bitAt_setPix {s : State} (hw : memWf s.fb = true) {x y : Int} {p q : PixelAddr}
    (hp : locate s.n x y = some p) (hq : q.device < s.n.toNat) (on : Bool) :
    (s.setPix x y on).bitAt q = if q = p then on else s.bitAt q := by
  have hbyte : (s.setPix x y on).fbByte q.row q.device = if q.row = p.row ∧ q.device = p.device then
      putBit p.bit on (s.fbByte p.row p.device) else s.fbByte q.row q.device := by
    rw [State.setPix_of_locate hp]
    exact s.fbByte_fbStore p.row q.row p.device q.device _ hw (locate_device_lt hp).2 (lt_trans hq s.n.isLt)
  rw [State.bitAt, hbyte]
  by_cases hsame : q.row = p.row ∧ q.device = p.device
  · obtain ⟨hrow, hdevice⟩ := hsame
    have heq : q = p ↔ q.bit = p.bit := by rw [PixelAddr.mk.injEq, and_iff_right hrow, and_iff_right hdevice]
    rw [if_pos ⟨hrow, hdevice⟩, putBit_getLsbD, State.bitAt, hrow, hdevice]
    simp only [heq]
  · rw [if_neg hsame, if_neg (fun h => hsame (by rw [h]; exact ⟨rfl, rfl⟩)), State.bitAt]

theorem State.pixelOn_of_valid {s : State} {x y : Int} (h : valid s.n x y = true) :
    s.pixelOn x y = s.bitAt (address x y) := by
  rw [State.pixelOn, locate_of_valid h]

/-- Different valid coordinates have different addresses (40 R84). -/
theorem address_inj {n : Byte} {x y x' y' : Int} (h : valid n x y = true) (h' : valid n x' y' = true) :
    address x' y' = address x y ↔ (x', y') = (x, y) := by
  refine ⟨fun heq => ?_, fun heq => ?_⟩
  · rw [← coord_address_of_valid h', heq, coord_address_of_valid h]
  · rw [(Prod.mk.inj heq).1, (Prod.mk.inj heq).2]

/-- The canvas after SetPix: the one pixel set, every other as it was (41 R91). -/
theorem State.pixelOn_setPix {s : State} (hw : memWf s.fb = true) {x y x' y' : Int} (h : valid s.n x y = true)
    (h' : valid s.n x' y' = true) (on : Bool) :
    (s.setPix x y on).pixelOn x' y' = if (x', y') = (x, y) then on else s.pixelOn x' y' := by
  rw [State.pixelOn_of_valid (by simpa using h'), State.pixelOn_of_valid h',
    State.bitAt_setPix hw (locate_of_valid h) (address_device_lt h') on]
  simp only [address_inj h h']

/-! ### The laws of the canvas (41 R96, R99) -/

theorem exec_togglePixel_of_ready {s : State} (hs : s.Ready) (x y : Int) :
    exec (.togglePixel x y) s = .next (s.setPix x y (!s.pixelOn x y)) := by
  rw [togglePixelResult s x y hs, State.flipPix_eq_setPix]

theorem exec_getPixel_of_ready {s : State} (hs : s.Ready) (x y : Int) :
    exec (.getPixel x y) s = .next (s.respond (s.pixelOn x y)) := by
  obtain ⟨hq, hm, -, -⟩ := hs
  exact getPixelResult s x y hq hm

/-- After CLEAR every pixel is off (41 R97). -/
theorem State.pixelOn_zeroFb {s : State} (hw : memWf s.fb = true) (x y : Int) : s.zeroFb.pixelOn x y = false := by
  rw [State.pixelOn]
  split
  · rfl
  · rename_i p hp
    rw [State.bitAt, State.fbByte_zeroFb hw (locate_device_lt hp).1, BitVec.getLsbD_zero]

/-- Settles O27: each law is read off the effect of SetPix on the pixels. -/
theorem canvasLaws : Obligations.CanvasLaws := by
  intro s hs hw
  have hset := fun x y on => setPixelResult s x y on hs
  have htoggle := fun x y => exec_togglePixel_of_ready hs x y
  refine ⟨fun x y b hv => ?_, fun x y hv => ?_, ?_, fun x y x' y' b hv hv' hne => ?_, fun x y b hv => ?_, fun x y => ?_⟩
  · refine ⟨_, _, hset x y b, exec_getPixel_of_ready (hs.setPix x y b) x y, ?_⟩
    rw [State.respond_rsp, State.pixelOn_setPix hw hv hv, if_pos rfl]
  · refine ⟨_, _, htoggle x y, exec_togglePixel_of_ready (hs.setPix x y _) x y, ?_⟩
    rw [State.pixelOn_setPix (State.memWf_setPix hw x y _) (by simpa using hv) (by simpa using hv), if_pos rfl,
      State.pixelOn_setPix hw hv hv, if_pos rfl, Bool.not_not]
  · have hcleared : (s.zeroFb.emits (clearEvents s.n.toNat)).Ready := hs
    exact ⟨_, exec_clear_of_ready hs hw, fun x y _ =>
      ⟨_, exec_getPixel_of_ready hcleared x y, State.pixelOn_zeroFb hw x y⟩⟩
  · refine ⟨_, _, hset x y b, ?_, htoggle x y, ?_⟩ <;> rw [State.pixelOn_setPix hw hv hv', if_neg hne]
  · refine ⟨_, _, hset x y b, ?_, ?_, htoggle x y, ?_, ?_⟩ <;> rw [State.setPix_of_invalid hv]
  · exact ⟨_, exec_getPixel_of_ready hs x y, rfl, rfl⟩

/-- The row sync's trace depends on N and FB alone (42 R112). -/
theorem State.rowSyncEvents_congr {s t : State} (hn : t.n = s.n) (hfb : t.fb = s.fb) (r : Fin 8) :
    t.rowSyncEvents r = s.rowSyncEvents r := by
  simp only [State.rowSyncEvents, State.fbByte, hn, hfb]

@[simp] theorem State.flipPix_n (s : State) (x y : Int) : (s.flipPix x y).n = s.n := by
  rw [State.flipPix_eq_setPix, State.setPix_n]

theorem State.Ready.flipPix {s : State} (hs : s.Ready) (x y : Int) : (s.flipPix x y).Ready := by
  rw [State.flipPix_eq_setPix]
  exact hs.setPix x y _

theorem State.flipPix_trace {s : State} {x y : Int} {p : PixelAddr} (h : locate s.n x y = some p) :
    (s.flipPix x y).trace = s.trace ++ (s.flipPix x y).rowSyncEvents p.row := by
  rw [State.flipPix_of_locate h]
  rfl

/-- Flipping a pixel twice puts its byte back, and with it the whole of FB (41 R96). -/
theorem State.flipPix_flipPix_fb {s : State} (hw : memWf s.fb = true) {x y : Int} {p : PixelAddr}
    (h : locate s.n x y = some p) : ((s.flipPix x y).flipPix x y).fb = s.fb := by
  have hdevice := (locate_device_lt h).2
  have hbyte : (s.flipPix x y).fbByte p.row p.device = flipBit p.bit (s.fbByte p.row p.device) := by
    rw [State.flipPix_of_locate h]
    exact (s.fbByte_fbStore _ _ _ _ _ hw hdevice hdevice).trans (if_pos ⟨rfl, rfl⟩)
  rw [State.flipPix_of_locate (s := s.flipPix x y) (by rwa [State.flipPix_n]), hbyte, flipBit_flipBit,
    State.flipPix_of_locate h]
  exact memWrite_restore hw _ _

/-- Settles O28: the second flip restores FB, so that its row sync sends the row as it was before the first. -/
theorem toggleLaws : Obligations.ToggleLaws := by
  intro s x y p hs hw hp
  have hp' : locate (s.flipPix x y).n x y = some p := by rwa [State.flipPix_n]
  have hfb := State.flipPix_flipPix_fb hw hp
  refine ⟨?_, _, _, togglePixelResult s x y hs, togglePixelResult _ x y (hs.flipPix x y), hfb, ?_⟩
  · rw [exec_togglePixel_of_ready hs, setPixelResult s x y _ hs]
  · rw [State.flipPix_trace hp', State.flipPix_trace hp, State.rowSyncEvents_congr (by simp) hfb]

end Sys2Proof.Machine
end

section
/-!
PROOFS. The canvas family, second part: a run of calls up to one that does not return, what a row sync leaves of the chips'
registers, and the frames of the commands (41 R91 to R97, 42 R114 to R118).
-/

/- As in the state family above: these proofs too are elaborated one after another, for the memory limit of the check. -/
set_option deprecated.oldSectionVars true

namespace Sys2Proof.Machine

/-! ### Runs up to a call that does not return -/

/-- A run of a list in two parts is the run of the one, then of the other, unless the first has to wait. -/
theorem runSteps_append_cases {as bs : List SeqStep} {s t : State} (h : runSteps (as ++ bs) s = .next t) :
    ∃ u, runSteps as s = .next u ∧ (runSteps bs u = .next t ∨ ∃ q, t = { u with seq := q }) := by
  induction as generalizing s with
  | nil => exact ⟨s, rfl, .inl h⟩
  | cons op rest ih =>
    rcases runSteps_next_cases h with ⟨hnil, -⟩ | ⟨op', rest', u, hcons, hact, hrun⟩ | ⟨op', rest', hcons, hact, rfl⟩
    · cases hnil
    · cases hcons
      rw [runSteps_cons_done hact]
      exact ih hrun
    · cases hcons
      exact ⟨{ s with seq := op :: rest ++ s.seq }, by rw [runSteps, hact], .inr ⟨_, rfl⟩⟩

/-- A run of a command's body, the transport set up, does not stop. -/
theorem runSteps_inBody_next {ops : List SeqStep} {s : State} (hops : ops.all (SeqStep.inBody s.n) = true)
    (hr : s.tpReady = true) : ∃ t, runSteps ops s = .next t := by
  induction ops generalizing s with
  | nil => exact ⟨s, rfl⟩
  | cons op rest ih =>
    obtain ⟨hop, hrest⟩ : op.inBody s.n = true ∧ rest.all (SeqStep.inBody s.n) = true := by simpa using hops
    rw [runSteps]
    cases hact : op.act s with
    | done u =>
      obtain ⟨hn, -, hr'⟩ := SeqStep.act_inBody_keeps_control hact hop
      exact ih (hn ▸ hrest) (hr'.trans hr)
    | wait => exact ⟨_, rfl⟩
    | stop f => exact absurd hact (SeqStep.act_inBody_ne_stop hop (.inl hr) f)

theorem State.tpTraffic_cases (s : State) (e : Event) : s.tpTraffic e = s.tpCall e ∨ ∃ f, s.tpTraffic e = .stop f := by
  rw [State.tpTraffic]
  split
  · exact .inl rfl
  · exact .inr ⟨_, rfl⟩

/-- A send or a latch is its call, if it does not stop. -/
theorem SeqStep.act_of_call {op : SeqStep} {s : State} {e : Event} (he : op.call s = some e) (hinit : e ≠ .init) :
    op.act s = s.tpCall e ∨ ∃ f, op.act s = .stop f := by
  cases op with
  | tpInit => exact absurd (Option.some.inj he).symm hinit
  | tpSend b => exact Option.some.inj he ▸ s.tpTraffic_cases _
  | tpSendFb r d =>
    rw [SeqStep.act]
    split
    · exact Option.some.inj he ▸ s.tpTraffic_cases _
    · exact .inr ⟨_, rfl⟩
  | tpLatch => exact Option.some.inj he ▸ s.tpTraffic_cases _
  | _ => cases he

/-- The call of a step depends on FB alone. -/
theorem SeqStep.call_congr {s t : State} (hfb : t.fb = s.fb) (op : SeqStep) : op.call t = op.call s := by
  cases op <;> simp only [SeqStep.call, State.fbByte, hfb]

/-- A step list of sends and latches alone, with the events of their calls. -/
def Calls (s : State) (ops : List SeqStep) (es : List Event) : Prop :=
  ops.map (SeqStep.call s) = es.map some ∧ .init ∉ es

theorem Calls.nil_iff {s : State} {es : List Event} : Calls s [] es ↔ es = [] := by
  rw [Calls, List.map_nil, eq_comm, List.map_eq_nil_iff]
  exact and_iff_left_of_imp (by rintro rfl; simp)

theorem Calls.length_eq {s : State} {ops : List SeqStep} {es : List Event} (h : Calls s ops es) :
    ops.length = es.length := by
  obtain ⟨hmap, -⟩ := h
  simpa using congrArg List.length hmap

/-- The first call of a list, and the others in any state with the same FB. -/
theorem Calls.cons {s : State} {op : SeqStep} {rest : List SeqStep} {es : List Event} (h : Calls s (op :: rest) es) :
    ∃ e fs, es = e :: fs ∧ op.call s = some e ∧ e ≠ .init ∧ ∀ t : State, t.fb = s.fb → Calls t rest fs := by
  obtain ⟨hmap, hinit⟩ := h
  cases es with
  | nil => cases hmap
  | cons e fs =>
    obtain ⟨he, hrest⟩ := List.cons.inj hmap
    obtain ⟨hne, hinit⟩ := not_or.1 (mt List.mem_cons.2 hinit)
    refine ⟨e, fs, rfl, he, Ne.symm hne, fun t hfb => ⟨?_, hinit⟩⟩
    rw [← hrest]
    exact List.map_congr_left fun op _ => SeqStep.call_congr hfb op

theorem spendCredit_eq_some {c : Option Nat} (hc : c ≠ some 0) {k : Nat} : spendCredit c = some k ↔ c = some (k + 1) := by
  cases c with
  | none => simp [spendCredit]
  | some m =>
    have hm : m ≠ 0 := fun h => hc (congrArg some h)
    simp only [spendCredit, Option.some.injEq]
    omega

/-- A run of calls emits the events of as many of them as return, leaves the others to do and changes nothing else (70 R188). -/
theorem runSteps_calls {ops : List SeqStep} {s t : State} {es : List Event} (hcalls : Calls s ops es)
    (h : runSteps ops s = .next t) :
    ∃ k c, (k = es.length ∨ s.tpCredit = some k) ∧ (∀ m, s.tpCredit = some m → k ≤ m) ∧
      t = { s.emits (es.take k) with seq := ops.drop k ++ s.seq, tpCredit := c } := by
  induction ops generalizing s es with
  | nil =>
    obtain rfl := Calls.nil_iff.1 hcalls
    cases h
    exact ⟨0, _, .inl rfl, fun m _ => Nat.zero_le m, by rw [List.take_nil, State.emits_nil]; rfl⟩
  | cons op rest ih =>
    obtain ⟨e, fs, rfl, he, hne, hrest⟩ := hcalls.cons
    rcases SeqStep.act_of_call he hne with hact | ⟨f, hact⟩
    · by_cases hc : s.tpCredit = some 0
      · rw [runSteps, hact, State.tpCall_waits e hc] at h
        cases h
        exact ⟨0, _, .inr hc, fun m _ => Nat.zero_le m, by rw [List.take_zero, State.emits_nil]; rfl⟩
      · have hdone : op.act s = .done ({ s with tpCredit := spendCredit s.tpCredit }.emit e) := by
          rw [hact, State.tpCall, if_neg hc]
        rw [runSteps_cons_done hdone] at h
        obtain ⟨k, c, hk, hle, rfl⟩ := ih (s := { s with tpCredit := spendCredit s.tpCredit }.emit e) (hrest _ rfl) h
        refine ⟨k + 1, c, hk.imp (congrArg (· + 1)) (spendCredit_eq_some hc).1, fun m hm => ?_, ?_⟩
        · cases m with
          | zero => exact absurd hm hc
          | succ m => exact Nat.succ_le_succ (hle m ((spendCredit_eq_some hc).2 hm))
        · rw [List.take_succ_cons, State.emits_cons]
          rfl
    · rw [runSteps, hact] at h
      cases h

/-- RowSync is calls alone, those of its trace (42 R112). -/
theorem rowSyncSteps_calls (s : State) (r : Fin 8) : Calls s (rowSyncSteps s.n r) (s.rowSyncEvents r) := by
  constructor
  · simp [rowSyncSteps, State.rowSyncEvents, packetEvents, SeqStep.call, List.map_flatMap]
  · simp [State.rowSyncEvents, packetEvents]

/-! ### The chips' registers during a row sync (42 R115, R117, R118) -/

/-- A packet passing into the chain: each chip takes what the one before it held. -/
def shiftPacket : PacketWord → List Chip → List Chip
  | _, [] => []
  | w, c :: cs => { c with sr := w } :: shiftPacket c.sr cs

/-- The two sends of a packet move the chain on by one packet (42 R115). -/
theorem wire_packetEvents (cfg : Config) (a v : Byte) (cs : List Chip) :
    (packetEvents a v).foldl (wire cfg) cs = shiftPacket (mkPacket a v) cs := by
  show shiftIn v (shiftIn a cs) = _
  induction cs generalizing a v with
  | nil => rfl
  | cons c cs ih =>
    rw [shiftIn_cons, shiftIn_cons, packetValue_mkPacket, packetAddr_mkPacket, ih, mkPacket_fields]
    rfl

theorem shiftPacket_map_sr (w : PacketWord) (cs : List Chip) :
    (shiftPacket w cs).map Chip.sr = (w :: cs.map Chip.sr).take cs.length := by
  induction cs generalizing w with
  | nil => rfl
  | cons c cs ih => rw [shiftPacket, List.map_cons, ih, List.length_cons, List.take_succ_cons, List.map_cons]

@[simp] theorem shiftPacket_length (w : PacketWord) (cs : List Chip) : (shiftPacket w cs).length = cs.length := by
  rw [← List.length_map (f := Chip.sr), shiftPacket_map_sr]
  simp

/-- After several packets the chain holds them, the last in chip 0, and behind them what it held before (42 R116). -/
theorem foldl_wire_packets_map_sr {α : Type} (cfg : Config) (ds : List α) (a v : α → Byte) (cs : List Chip) :
    ((ds.flatMap fun d => packetEvents (a d) (v d)).foldl (wire cfg) cs).map Chip.sr =
      ((ds.reverse.map fun d => mkPacket (a d) (v d)) ++ cs.map Chip.sr).take cs.length := by
  induction ds generalizing cs with
  | nil => simp
  | cons d ds ih =>
    rw [List.flatMap_cons, List.foldl_append, wire_packetEvents, ih, shiftPacket_length, shiftPacket_map_sr]
    simp [List.take_append, List.take_take]

/-- Only a latch changes a register (42 R117). -/
theorem wire_map_reg {cfg : Config} {e : Event} (h : e ≠ .latch) (cs : List Chip) :
    (wire cfg cs e).map Chip.reg = cs.map Chip.reg := by
  cases e with
  | init => rfl
  | send b => exact shiftIn_map_reg b cs
  | latch => exact absurd rfl h

theorem foldl_wire_map_reg {cfg : Config} {es : List Event} (h : .latch ∉ es) (cs : List Chip) :
    (es.foldl (wire cfg) cs).map Chip.reg = cs.map Chip.reg := by
  induction es generalizing cs with
  | nil => rfl
  | cons e es ih =>
    obtain ⟨hne, hes⟩ := not_or.1 (mt List.mem_cons.2 h)
    rw [List.foldl_cons, ih hes, wire_map_reg (Ne.symm hne)]

theorem State.chipReg_eq (s : State) (j : Nat) (a : Byte) :
    s.chipReg j a = ((s.chips.map Chip.reg)[j]?.map fun reg => memRead reg a.toNat).getD 0#8 := by
  rw [State.chipReg, List.getElem?_map]
  cases s.chips[j]? <;> rfl

/-- Without a latch no register of any chip changes (42 R114). -/
theorem State.chipReg_emits {s : State} {es : List Event} (h : .latch ∉ es) (j : Nat) (a : Byte) :
    (s.emits es).chipReg j a = s.chipReg j a := by
  rw [State.chipReg_eq, State.chipReg_eq, State.emits_chips, foldl_wire_map_reg h]

/-- A latch writes in each chip only the register its packet addresses (42 R117). -/
theorem State.chipReg_latch {s : State} {j : Nat} {a : Byte}
    (h : ∀ c, s.chips[j]? = some c → memWf c.reg = true ∧ packetAddr c.sr ≠ a) :
    (s.emit .latch).chipReg j a = s.chipReg j a := by
  rw [State.chipReg, State.chipReg, State.emit_chips, wire, List.getElem?_map]
  cases hc : s.chips[j]? with
  | none => rfl
  | some c =>
    obtain ⟨hw, hne⟩ := h c hc
    show memRead (c.latch s.cfg).reg a.toNat = memRead c.reg a.toNat
    rw [chip_latch_reg]
    split
    · rw [memRead_memWrite _ _ _ hw, if_neg (fun heq => hne (BitVec.eq_of_toNat_eq heq).symm)]
    · rfl

theorem State.ChipsInv.emits {s : State} (h : s.ChipsInv) (es : List Event) : (s.emits es).ChipsInv := by
  induction es generalizing s with
  | nil => exact s.emits_nil.symm ▸ h
  | cons e es ih =>
    rw [State.emits_cons]
    exact ih (wire_regInv h e)

/-- The packets of a row sync, without its latch. -/
def State.rowPackets (s : State) (r : Fin 8) : List Event :=
  (devicesDown s.n).flatMap fun d => packetEvents (digitReg r) (s.fbByte r d)

theorem State.rowSyncEvents_eq (s : State) (r : Fin 8) : s.rowSyncEvents r = s.rowPackets r ++ [.latch] := rfl

theorem State.latch_not_mem_rowPackets (s : State) (r : Fin 8) : .latch ∉ s.rowPackets r := by
  simp [State.rowPackets, packetEvents]

theorem State.rowPackets_length (s : State) (r : Fin 8) : (s.rowPackets r).length = 2 * s.n.toNat := by
  simp [State.rowPackets, devicesDown, packetEvents, mul_comm]

theorem State.rowSyncEvents_length (s : State) (r : Fin 8) : (s.rowSyncEvents r).length = 2 * s.n.toNat + 1 := by
  rw [State.rowSyncEvents_eq, List.length_append, State.rowPackets_length, List.length_singleton]

/-- Before its latch a row sync changes no register (42 R114, R118). -/
theorem State.chipReg_emits_rowSync_take (s : State) (r : Fin 8) {k : Nat} (hk : k ≤ 2 * s.n.toNat) (j : Nat) (a : Byte) :
    (s.emits ((s.rowSyncEvents r).take k)).chipReg j a = s.chipReg j a := by
  refine State.chipReg_emits (fun hmem => ?_) j a
  rw [State.rowSyncEvents_eq, List.take_append_of_le_length (by rwa [State.rowPackets_length])] at hmem
  exact s.latch_not_mem_rowPackets r (List.mem_of_mem_take hmem)

/-- Once the packets of a row are sent each of the N chips holds one for that row (42 R116). -/
theorem State.packetAddr_of_rowPackets {s : State} {r : Fin 8} {j : Nat} (hj : j < s.n.toNat) {c : Chip}
    (hc : (s.emits (s.rowPackets r)).chips[j]? = some c) : packetAddr c.sr = digitReg r := by
  have hsr : ((s.emits (s.rowPackets r)).chips.map Chip.sr)[j]? = some c.sr := by rw [List.getElem?_map, hc]; rfl
  rw [State.emits_chips, State.rowPackets, foldl_wire_packets_map_sr] at hsr
  rw [List.getElem?_take] at hsr
  split at hsr
  · rw [List.getElem?_append_left (by simpa [devicesDown] using hj)] at hsr
    obtain ⟨d, -, hd⟩ := List.mem_map.1 (List.mem_of_getElem? hsr)
    rw [← hd, packetAddr_mkPacket]
  · cases hsr

/-- A whole row sync changes in the N chips only the row's digit register (42 R118). -/
theorem State.chipReg_emits_rowSync {s : State} (hs : s.ChipsInv) {r : Fin 8} {j : Nat} (hj : j < s.n.toNat) {a : Byte}
    (ha : a ≠ digitReg r) : (s.emits (s.rowSyncEvents r)).chipReg j a = s.chipReg j a := by
  rw [State.rowSyncEvents_eq, ← State.emits_emits, State.emits_singleton, State.chipReg_latch,
    State.chipReg_emits (s.latch_not_mem_rowPackets r)]
  intro c hc
  obtain ⟨hw, -⟩ := hs.emits (s.rowPackets r) c (List.mem_of_getElem? hc)
  exact ⟨hw, State.packetAddr_of_rowPackets hj hc ▸ Ne.symm ha⟩

/-! ### The frames of the parts of a command -/

/-- What row syncs leave alone: N, FB, the form of the chips' registers and, in the N chips, every register but the digit
registers of the rows. -/
structure State.SyncFrame (rs : List (Fin 8)) (s t : State) : Prop where
  n_eq : t.n = s.n
  fb_eq : t.fb = s.fb
  chipsInv : t.ChipsInv
  chipReg_eq : ∀ (j : Nat) (a : Byte), j < s.n.toNat → (∀ r ∈ rs, a ≠ digitReg r) → t.chipReg j a = s.chipReg j a

theorem State.SyncFrame.trans {s t u : State} {r : Fin 8} {rs : List (Fin 8)} (h : s.SyncFrame [r] t)
    (h' : t.SyncFrame rs u) : s.SyncFrame (r :: rs) u where
  n_eq := h'.n_eq.trans h.n_eq
  fb_eq := h'.fb_eq.trans h.fb_eq
  chipsInv := h'.chipsInv
  chipReg_eq j a hj ha := by
    rw [h'.chipReg_eq j a (h.n_eq ▸ hj) fun q hq => ha q (List.mem_cons_of_mem r hq),
      h.chipReg_eq j a hj fun q hq => ha q (List.mem_singleton.1 hq ▸ List.mem_cons_self)]

/-- RowSync, whether it completes or waits (42 R114, R118). -/
theorem runSteps_rowSync_frame {s t : State} {r : Fin 8} (hs : s.ChipsInv)
    (h : runSteps (rowSyncSteps s.n r) s = .next t) : s.SyncFrame [r] t := by
  obtain ⟨k, c, -, -, rfl⟩ := runSteps_calls (rowSyncSteps_calls s r) h
  refine ⟨rfl, rfl, hs.emits _, fun j a hj ha => ?_⟩
  show (s.emits ((s.rowSyncEvents r).take k)).chipReg j a = s.chipReg j a
  by_cases hk : k ≤ 2 * s.n.toNat
  · exact s.chipReg_emits_rowSync_take r hk j a
  · have hlen : (s.rowSyncEvents r).length ≤ k := by
      rw [State.rowSyncEvents_length]
      omega
    rw [List.take_of_length_le hlen, State.chipReg_emits_rowSync hs hj (ha r (List.mem_singleton.2 rfl))]

/-- Row syncs one after another, whether they complete or wait. -/
theorem runSteps_rowSyncs_frame {rs : List (Fin 8)} {s t : State} (hs : s.ChipsInv)
    (h : runSteps (rs.flatMap (rowSyncSteps s.n)) s = .next t) : s.SyncFrame rs t := by
  induction rs generalizing s with
  | nil =>
    cases h
    exact ⟨rfl, rfl, hs, fun _ _ _ _ => rfl⟩
  | cons r rs ih =>
    obtain ⟨u, hfirst, hrest⟩ := runSteps_append_cases h
    have hu := runSteps_rowSync_frame hs hfirst
    refine hu.trans ?_
    rcases hrest with hrest | ⟨q, rfl⟩
    · exact ih hu.chipsInv (hu.n_eq ▸ hrest)
    · exact ⟨rfl, rfl, hu.chipsInv, fun _ _ _ _ => rfl⟩

theorem State.SameControl.refl (s : State) : s.SameControl s := by
  simp [State.SameControl]

theorem State.SameControl.trans {s t u : State} (h : s.SameControl t) (h' : t.SameControl u) : s.SameControl u := by
  simp only [State.SameControl] at h h' ⊢
  simp [h, h']

theorem State.sameControl_raise_seq (s : State) : s.SameControl (s.raise .seq) := by
  simp [State.SameControl]

/-- A step of a command's body leaves every register and flag. -/
theorem SeqStep.act_inBody_sameControl {op : SeqStep} {s t : State} (h : op.act s = .done t)
    (hop : op.inBody s.n = true) : s.SameControl t ∧ t.fSeq = s.fSeq := by
  rcases SeqStep.act_done_cases h with ⟨n, rfl, rfl⟩ | ⟨m, rfl, rfl⟩ | ⟨r, d, v, _, _, rfl⟩ | ⟨b, _, hb⟩ |
    ⟨f, rfl, rfl⟩ | ⟨rfl, _, rfl⟩ | ⟨e, _, _, _, _, rfl⟩ | ⟨rfl, rfl⟩
  · cases hop
  · cases hop
  · exact ⟨by simp [State.SameControl], rfl⟩
  · rw [hb] at hop
    cases hop
  · cases hop
  · cases hop
  · exact ⟨by simp [State.SameControl], rfl⟩
  · cases hop

/-- So does a whole body, whether it completes or waits. -/
theorem runSteps_inBody_sameControl {ops : List SeqStep} {s t : State} (hops : ops.all (SeqStep.inBody s.n) = true)
    (h : runSteps ops s = .next t) : s.SameControl t ∧ t.fSeq = s.fSeq := by
  refine runSteps_induct (P := fun u => s.SameControl u ∧ u.fSeq = s.fSeq) ?_ (fun _ _ hu => hu) ⟨.refl s, rfl⟩ h
  rintro op hmem u v ⟨hu, hf⟩ hact
  have hn : u.n = s.n := by
    obtain ⟨-, hn, -⟩ := hu
    exact hn
  obtain ⟨hv, hf'⟩ := SeqStep.act_inBody_sameControl hact (hn ▸ List.all_eq_true.1 hops op hmem)
  exact ⟨hu.trans hv, hf'.trans hf⟩

/-! ### The frames of the commands -/

/-- What a command that needs OPER can do: nothing when the block is busy, the one fault outside OPER, or its steps (41 R90). -/
theorem exec_operSteps_cases {i : Instr} {s t : State} {q : List SeqStep} (hi : i.isCommand = true)
    (hlist : stepList i s = operSteps s q) (h : exec i s = .next t) :
    t = s ∨ (s.mode ≠ .oper ∧ t = s.raise .seq) ∨ (s.mode = .oper ∧ runSteps q s = .next t) := by
  by_cases hq : s.seq = []
  · rw [exec_idle i s hq, hlist] at h
    by_cases hm : s.mode = .oper
    · exact .inr (.inr ⟨hm, by rwa [operSteps_of_oper hm] at h⟩)
    · rw [operSteps, if_neg hm] at h
      cases h
      exact .inr (.inl ⟨hm, rfl⟩)
  · rw [exec_command i s hi, State.accept_busy s _ hq] at h
    cases h
    exact .inl rfl

/-- The write that a SET_PIXEL or TOGGLE_PIXEL at `x, y` begins with: of the located byte, the located bit alone (41 R91, R95). -/
def State.PixelStore (s : State) (x y : Int) (p : PixelAddr) (v : Byte) : Prop :=
  locate s.n x y = some p ∧ ∀ i : Fin 8, i ≠ p.bit → v.getLsbD i.val = (s.fbByte p.row p.device).getLsbD i.val

/-- What the steps of a SET_PIXEL or TOGGLE_PIXEL can do: nothing out of range, or the write and then the row's sync. -/
theorem runSteps_pixel_cases {s t : State} {x y : Int} {on : Bool}
    (h : runSteps (setPixSteps s.n x y on) s = .next t ∨ runSteps (togglePixSteps s.n x y) s = .next t) :
    t = s ∨ ∃ p v, s.PixelStore x y p v ∧
      runSteps (rowSyncSteps s.n p.row) (s.fbStore p.row p.device v) = .next t := by
  cases hl : locate s.n x y with
  | none =>
    rw [setPixSteps, togglePixSteps, hl, runSteps_nil, or_self] at h
    exact .inl (Host.Outcome.next.inj h).symm
  | some p =>
    rcases h with h | h
    · rw [runSteps_setPixSteps_of_locate hl] at h
      exact .inr ⟨p, _, ⟨hl, fun i hi => by rw [putBit_getLsbD, if_neg hi]⟩, h⟩
    · rw [runSteps_togglePixSteps_of_locate hl] at h
      exact .inr ⟨p, _, ⟨hl, fun i hi => by rw [flipBit_getLsbD, if_neg hi]⟩, h⟩

theorem exec_pixel_cases {s t : State} {x y : Int} {on : Bool}
    (h : exec (.setPixel x y on) s = .next t ∨ exec (.togglePixel x y) s = .next t) :
    t = s ∨ (s.mode ≠ .oper ∧ t = s.raise .seq) ∨ ∃ p v, s.PixelStore x y p v ∧
      runSteps (rowSyncSteps s.n p.row) (s.fbStore p.row p.device v) = .next t := by
  have hcases : t = s ∨ (s.mode ≠ .oper ∧ t = s.raise .seq) ∨
      (runSteps (setPixSteps s.n x y on) s = .next t ∨ runSteps (togglePixSteps s.n x y) s = .next t) :=
    h.elim (fun h => (exec_operSteps_cases rfl rfl h).imp_right (Or.imp_right fun ⟨_, hrun⟩ => .inl hrun))
      (fun h => (exec_operSteps_cases rfl rfl h).imp_right (Or.imp_right fun ⟨_, hrun⟩ => .inr hrun))
  rcases hcases with ht | ht | hrun
  · exact .inl ht
  · exact .inr (.inl ht)
  · exact (runSteps_pixel_cases hrun).imp_right .inr

/-- Settles O47: the write reaches the located bit, and the sync after it the digit registers of the located row. -/
theorem setAndToggleFrame : Obligations.SetAndToggleFrame := by
  intro s t x y on hw hchips h
  rcases exec_pixel_cases h with rfl | ⟨hm, rfl⟩ | ⟨p, v, ⟨hp, hv⟩, hrun⟩
  · exact ⟨.refl t, fun _ => rfl, fun _ _ => rfl, fun _ _ _ _ => rfl, fun _ _ _ _ => rfl⟩
  · exact ⟨s.sameControl_raise_seq, fun ho => absurd ho hm, fun _ _ => rfl, fun _ _ _ _ => rfl, fun _ _ _ _ => rfl⟩
  · have hsync := runSteps_rowSync_frame (s := s.fbStore p.row p.device v) hchips hrun
    obtain ⟨hcontrol, hfSeq⟩ := runSteps_inBody_sameControl (s := s.fbStore p.row p.device v)
      (rowSyncSteps_inBody _ _) hrun
    have hread (a : Nat) : memRead t.fb a = if a = fbAddr p.row p.device then v else memRead s.fb a := by
      rw [hsync.fb_eq, State.fbStore_fb, memRead_memWrite _ _ _ hw]
    refine ⟨hcontrol, fun _ => hfSeq, fun a ha => ?_, fun q hq k hk => ?_, fun j a hj ha => ?_⟩
    · rw [hread, if_neg (ha p hp)]
    · obtain rfl : p = q := Option.some.inj (hp.symm.trans hq)
      show (memRead t.fb (fbAddr p.row p.device)).getLsbD k.val = _
      rw [hread, if_pos rfl, hv k hk]
      rfl
    · exact hsync.chipReg_eq j a hj fun r hr => List.mem_singleton.1 hr ▸ ha p hp

theorem digitReg_isDigitAddress (r : Fin 8) : isDigitAddress (digitReg r) = true := by
  revert r
  decide

/-- Settles O49: the zeroing reaches the bytes of FB, and the syncs after it the digit registers of the rows. -/
theorem clearFrame : Obligations.ClearFrame := by
  intro s t hw hchips h
  rcases exec_operSteps_cases rfl rfl h with rfl | ⟨hm, rfl⟩ | ⟨-, hrun⟩
  · exact ⟨.refl t, fun _ => rfl, fun _ _ => rfl, fun _ _ _ _ => rfl⟩
  · exact ⟨s.sameControl_raise_seq, fun ho => absurd ho hm, fun _ _ => rfl, fun _ _ _ _ => rfl⟩
  · obtain ⟨hcontrol, hfSeq⟩ := runSteps_inBody_sameControl (clearAllSteps_inBody s.n) hrun
    have hsync : s.zeroFb.SyncFrame rows t := by
      obtain ⟨u, hzero, hrest⟩ := runSteps_append_cases hrun
      obtain rfl : s.zeroFb = u := Host.Outcome.next.inj ((runSteps_zeroSteps s).symm.trans hzero)
      rcases hrest with hrest | ⟨q, rfl⟩
      · exact runSteps_rowSyncs_frame (s := s.zeroFb) hchips hrest
      · exact ⟨rfl, rfl, hchips, fun _ _ _ _ => rfl⟩
    refine ⟨hcontrol, fun _ => hfSeq, fun a ha => ?_, fun j a hj ha => hsync.chipReg_eq j a hj fun r _ => ?_⟩
    · rw [hsync.fb_eq, State.memRead_zeroFb hw ha]
    · rintro rfl
      rw [digitReg_isDigitAddress] at ha
      cases ha

/-! ### A call that does not return (41 R92, 70 R188) -/

/-- A row sync of which `k` calls return, too few for its latch, waits at the next. -/
theorem runSteps_rowSync_hang {s : State} {k : Nat} (r : Fin 8) (hr : s.tpReady = true) (hc : s.tpCredit = some k)
    (hk : k ≤ 2 * s.n.toNat) :
    ∃ c, runSteps (rowSyncSteps s.n r) s = .next { s.emits ((s.rowSyncEvents r).take k) with
      seq := (rowSyncSteps s.n r).drop k ++ s.seq, tpCredit := c } := by
  obtain ⟨t, ht⟩ := runSteps_inBody_next (rowSyncSteps_inBody s.n r) hr
  obtain ⟨j, c, hj, hle, rfl⟩ := runSteps_calls (rowSyncSteps_calls s r) ht
  have hjk : j ≤ k := hle k hc
  rw [hc, State.rowSyncEvents_length] at hj
  obtain rfl : k = j := hj.elim (fun hj => by omega) Option.some.inj
  exact ⟨c, ht⟩

/-- Settles O46: the write is done, and of the row sync the first `k` calls, none of which is the latch. -/
theorem setPixelHangLeavesChipsOld : Obligations.SetPixelHangLeavesChipsOld := by
  intro s x y on p k hq hm hr hc hk hp
  obtain ⟨c, hrun⟩ := runSteps_rowSync_hang
    (s := s.fbStore p.row p.device (putBit p.bit on (s.fbByte p.row p.device))) p.row hr hc hk
  have hexec : exec (.setPixel x y on) s = runSteps (rowSyncSteps s.n p.row)
      (s.fbStore p.row p.device (putBit p.bit on (s.fbByte p.row p.device))) := by
    rw [exec_idle _ s hq, stepList, setPixelSteps, operSteps_of_oper hm, runSteps_setPixSteps_of_locate hp]
  have hleft : (rowSyncSteps s.n p.row).drop k ≠ [] := by
    rw [Ne, List.drop_eq_nil_iff, (rowSyncSteps_calls s p.row).length_eq, State.rowSyncEvents_length]
    omega
  rw [State.setPix_of_locate hp]
  refine ⟨_, hexec.trans hrun, rfl, rfl, ?_, hm, fun f => by cases f <;> rfl, fun j a => ?_⟩
  · simp [State.busy, hleft]
  · exact State.chipReg_emits_rowSync_take (s.fbStore p.row p.device _) p.row hk j a

end Sys2Proof.Machine
end

section
/-!
PROOFS. The row serializer family: what one send, one latch and one whole row sync do to the chain (42 R115 to R118), the
coherence of the chips with FB row by row (42 R119), and the display (42 R120).
-/

/- As in the state family above: these proofs too are elaborated one after another, for the memory limit of the check. -/
set_option deprecated.oldSectionVars true

namespace Sys2Proof.Machine

/-! ### Packets in the chain (42 R116) -/

/-- After several packets a chip of the chain holds the one as far from the last as the chip is from the controller. -/
theorem map_sr_of_packets {α : Type} (cfg : Config) {cs : List Chip} {ds : List α} (a v : α → Byte) {j : Nat} {x : α}
    (hx : ds.reverse[j]? = some x) (hlen : j < cs.length) :
    ((ds.flatMap fun d => packetEvents (a d) (v d)).foldl (wire cfg) cs)[j]?.map Chip.sr = some (mkPacket (a x) (v x)) := by
  have hj : j < (ds.reverse.map fun d => mkPacket (a d) (v d)).length := by
    simpa using (List.getElem?_eq_some_iff.1 hx).1
  rw [← List.getElem?_map, foldl_wire_packets_map_sr, List.getElem?_take_of_lt hlen, List.getElem?_append_left hj,
    List.getElem?_map, hx]
  rfl

theorem State.sr_of_packets {α : Type} {s : State} {ds : List α} (a v : α → Byte) {j : Nat} {x : α}
    (hx : ds.reverse[j]? = some x) {c : Chip}
    (hc : (s.emits (ds.flatMap fun d => packetEvents (a d) (v d))).chips[j]? = some c) : c.sr = mkPacket (a x) (v x) := by
  have hlen : j < s.chips.length := by simpa using (List.getElem?_eq_some_iff.1 hc).1
  have hsr := map_sr_of_packets s.cfg a v hx hlen
  rw [State.emits_chips] at hc
  rw [hc] at hsr
  exact Option.some.inj hsr

/-! ### One latch (42 R117) -/

/-- What a chip's registers read after a latch: the register its packet addresses, if it has it, and no other (42 R117). -/
theorem memRead_latch (cfg : Config) {c : Chip} (hw : memWf c.reg = true) (a : Byte) :
    memRead (c.latch cfg).reg a.toNat =
      if isChipRegister cfg (packetAddr c.sr) = true ∧ a = packetAddr c.sr then packetValue c.sr
      else memRead c.reg a.toNat := by
  rw [chip_latch_reg]
  by_cases hreg : isChipRegister cfg (packetAddr c.sr) = true
  · rw [if_pos hreg, memRead_memWrite _ _ _ hw]
    simp only [hreg, true_and, BitVec.toNat_inj]
  · rw [if_neg hreg, if_neg (fun h => hreg h.1)]

theorem wire_latch_of_chip (cfg : Config) {cs : List Chip} {j : Nat} {c : Chip} (h : cs[j]? = some c) :
    (wire cfg cs .latch)[j]? = some (c.latch cfg) := by
  rw [wire, List.getElem?_map, h]
  rfl

theorem State.chipReg_of_chip {s : State} {j : Nat} {c : Chip} (h : s.chips[j]? = some c) (a : Byte) :
    s.chipReg j a = memRead c.reg a.toNat := by
  rw [State.chipReg, h]

/-- A latch puts the value of a chip's packet into the register it addresses (42 R117). -/
theorem State.chipReg_latch_of_packet {s : State} (hs : s.ChipsInv) {j : Nat} {c : Chip} (hc : s.chips[j]? = some c)
    {a v : Byte} (hsr : c.sr = mkPacket a v) (ha : isChipRegister s.cfg a = true) : (s.emit .latch).chipReg j a = v := by
  have hlatched : (s.emit .latch).chips[j]? = some (c.latch s.cfg) := wire_latch_of_chip s.cfg hc
  obtain ⟨hw, -⟩ := hs c (List.mem_of_getElem? hc)
  rw [State.chipReg_of_chip hlatched, memRead_latch _ hw, hsr, packetAddr_mkPacket, packetValue_mkPacket,
    if_pos ⟨ha, rfl⟩]

/-! ### One row sync (42 R118) -/

/-- Once the packets of a row are sent, chip `j` of the N holds the one of device `j` (42 R116). -/
theorem State.sr_of_rowPackets {s : State} {r : Fin 8} {j : Nat} (hj : j < s.n.toNat) {c : Chip}
    (hc : (s.emits (s.rowPackets r)).chips[j]? = some c) : c.sr = mkPacket (digitReg r) (s.fbByte r j) :=
  State.sr_of_packets (fun _ => digitReg r) (s.fbByte r) (by simp [devicesDown, hj]) hc

/-- A row sync puts the row's bytes into the digit registers of the chips there are of the N (42 R118). -/
theorem State.chipReg_emits_rowSync_same {s : State} (hs : s.ChipsInv) {r : Fin 8} {j : Nat} (hj : j < s.n.toNat)
    (hlen : j < s.chips.length) : (s.emits (s.rowSyncEvents r)).chipReg j (digitReg r) = s.fbByte r j := by
  obtain ⟨c, hc⟩ : ∃ c, (s.emits (s.rowPackets r)).chips[j]? = some c :=
    ⟨_, List.getElem?_eq_getElem (by simpa using hlen)⟩
  rw [State.rowSyncEvents_eq, ← State.emits_emits, State.emits_singleton]
  exact State.chipReg_latch_of_packet (hs.emits _) hc (State.sr_of_rowPackets hj hc) (isChipRegister_digitReg _ r)

/-! ### One configuration write (43 R127) -/

theorem equalPackets_eq_flatMap (n : Nat) (a v : Byte) :
    equalPackets n a v = ((List.range n).flatMap fun _ => packetEvents a v) ++ [.latch] := by
  simp [equalPackets, List.flatMap_def]

/-- A set of equal packets changes in the chips it reaches only the register they address (43 R127). -/
theorem State.chipReg_emits_equalPackets {s : State} (hs : s.ChipsInv) {n j : Nat} (hj : j < n) {a b v : Byte}
    (hb : b ≠ a) : (s.emits (equalPackets n a v)).chipReg j b = s.chipReg j b := by
  have hnolatch : .latch ∉ (List.range n).flatMap fun _ => packetEvents a v := by simp [packetEvents]
  rw [equalPackets_eq_flatMap, ← State.emits_emits, State.emits_singleton, State.chipReg_latch,
    State.chipReg_emits hnolatch]
  intro c hc
  obtain ⟨hw, -⟩ := hs.emits _ c (List.mem_of_getElem? hc)
  have hpacket : c.sr = mkPacket a v :=
    State.sr_of_packets (x := n - 1 - j) (fun _ => a) (fun _ => v) (by simp [hj]) hc
  rw [hpacket, packetAddr_mkPacket]
  exact ⟨hw, Ne.symm hb⟩

/-! ### Coherence row by row, through a step list -/

/-- The digit registers of the rows of `P` agree with FB, in the chips there are of the N (42 R119). -/
def State.CoherentOn (P : Fin 8 → Prop) (s : State) : Prop :=
  ∀ (r : Fin 8) (d : Nat), P r → d < s.n.toNat → d < s.chips.length → s.chipReg d (digitReg r) = s.fbByte r d

/-- Every row. -/
def allRows (_ : Fin 8) : Prop := True

theorem State.Coherent.coherentOn {s : State} (h : s.Coherent) (P : Fin 8 → Prop) : s.CoherentOn P :=
  fun r d _ hd _ => h r d hd

theorem State.CoherentOn.coherent {s : State} (h : s.CoherentOn allRows) (hreach : s.ChainReaches) : s.Coherent :=
  fun r d hd => h r d trivial hd (lt_of_lt_of_le hd hreach)

theorem State.CoherentOn.mono {s : State} {P Q : Fin 8 → Prop} (h : s.CoherentOn P) (hPQ : ∀ r, Q r → P r) :
    s.CoherentOn Q :=
  fun r d hr => h r d (hPQ r hr)

/-- A write to FB leaves the other rows as they were. -/
theorem State.CoherentOn.fbStore {s : State} {P : Fin 8 → Prop} (h : s.CoherentOn P) (hw : memWf s.fb = true) {r : Fin 8}
    (hr : ¬ P r) {d : Nat} (hd : d < s.n.toNat) (v : Byte) : (s.fbStore r d v).CoherentOn P := by
  intro q e hq he hlen
  have hqr : ¬ (q = r ∧ e = d) := fun ⟨heq, _⟩ => hr (heq ▸ hq)
  rw [State.fbByte_fbStore _ _ _ _ _ _ hw (lt_trans hd s.n.isLt) (lt_trans he s.n.isLt), if_neg hqr]
  exact h q e hq he hlen

/-- A row sync makes its row agree and leaves the others as they were (42 R118). -/
theorem State.CoherentOn.rowSync {s : State} {P : Fin 8 → Prop} (h : s.CoherentOn P) (hs : s.ChipsInv) (r : Fin 8) :
    (s.emits (s.rowSyncEvents r)).CoherentOn fun q => q = r ∨ P q := by
  intro q d hq hd hlen
  rw [State.emits_chips, foldl_wire_length] at hlen
  rw [State.emits_fbByte]
  by_cases hqr : q = r
  · rw [hqr]
    exact State.chipReg_emits_rowSync_same hs hd hlen
  · rw [State.chipReg_emits_rowSync hs hd (mt digitReg_inj.1 hqr)]
    exact h q d (hq.resolve_left hqr) hd hlen

/-- A write to a configuration register leaves every row as it was (43 R127). -/
theorem State.CoherentOn.equalPackets {s : State} {P : Fin 8 → Prop} (h : s.CoherentOn P) (hs : s.ChipsInv) {a : Byte}
    (ha : isDigitAddress a = false) (v : Byte) : (s.emits (equalPackets s.n.toNat a v)).CoherentOn P := by
  intro q d hq hd hlen
  rw [State.emits_chips, foldl_wire_length] at hlen
  have hne : digitReg q ≠ a := by
    rintro rfl
    rw [digitReg_isDigitAddress] at ha
    cases ha
  exact (State.chipReg_emits_equalPackets hs hd hne).trans (h q d hq hd hlen)

/-- Device count `n`, canonical memories, the transport set up and every call returning: what the steps of a command's body
keep, and under which none of them stops or waits. -/
structure State.Live (n : Byte) (s : State) : Prop where
  n_eq : s.n = n
  fbWf : memWf s.fb = true
  chipsInv : s.ChipsInv
  ready : s.tpReady = true
  calls : s.tpCredit = none

theorem State.Live.emits {n : Byte} {s : State} (h : s.Live n) (es : List Event) : (s.emits es).Live n :=
  ⟨h.n_eq, h.fbWf, h.chipsInv.emits es, h.ready, h.calls⟩

theorem State.Live.fbStore {n : Byte} {s : State} (h : s.Live n) (r : Fin 8) (d : Nat) (v : Byte) :
    (s.fbStore r d v).Live n :=
  ⟨h.n_eq, memWf_memWrite _ _ h.fbWf, h.chipsInv, h.ready, h.calls⟩

theorem State.Live.raise {n : Byte} {s : State} (h : s.Live n) (f : FaultFlag) : (s.raise f).Live n := by
  cases f <;> exact ⟨h.n_eq, h.fbWf, h.chipsInv, h.ready, h.calls⟩

/-- A step list completes, every call returning, and leads from agreement on the rows of `P` to agreement on those of `Q`. -/
def Syncs (n : Byte) (P : Fin 8 → Prop) (q : List SeqStep) (Q : Fin 8 → Prop) : Prop :=
  ∀ s : State, s.Live n → s.CoherentOn P → ∃ t, runSteps q s = .next t ∧ t.Live n ∧ t.CoherentOn Q

section
variable {n : Byte} {P Q R : Fin 8 → Prop} {p q : List SeqStep}

theorem Syncs.nil : Syncs n P [] P := fun s hs hP => ⟨s, rfl, hs, hP⟩

theorem Syncs.append (hp : Syncs n P p Q) (hq : Syncs n Q q R) : Syncs n P (p ++ q) R := by
  intro s hs hP
  obtain ⟨t, hrun, ht, hQ⟩ := hp s hs hP
  rw [runSteps_append hs.calls hrun]
  exact hq t ht hQ

theorem Syncs.mono {P' Q' : Fin 8 → Prop} (h : Syncs n P q Q) (hP : ∀ r, P r → P' r) (hQ : ∀ r, Q' r → Q r) :
    Syncs n P' q Q' := by
  intro s hs hP'
  obtain ⟨t, hrun, ht, hQt⟩ := h s hs (hP'.mono hP)
  exact ⟨t, hrun, ht, hQt.mono hQ⟩

/-- Lists that each keep the agreement keep it one after another. -/
theorem Syncs.flatMap {α : Type} {xs : List α} {f : α → List SeqStep} (h : ∀ x ∈ xs, Syncs n P (f x) P) :
    Syncs n P (xs.flatMap f) P := by
  induction xs with
  | nil => exact .nil
  | cons x xs ih =>
    rw [List.flatMap_cons]
    exact (h x List.mem_cons_self).append (ih fun y hy => h y (List.mem_cons_of_mem x hy))

/-- One write to a byte of FB that exists, its row being none of those that must agree. -/
theorem Syncs.write {op : SeqStep} {r : Fin 8} {d : Nat} {f : Byte → Byte} (hop : ∀ s, op.act s = s.fbModify r d f)
    (hd : d < n.toNat) (hr : ¬ P r) : Syncs n P [op] P := by
  intro s hs hP
  have hds : d < s.n.toNat := hs.n_eq ▸ hd
  exact ⟨_, runSteps_cons_done ((hop s).trans (State.fbModify_of_lt f hds)), hs.fbStore r d _, hP.fbStore hs.fbWf hr hds _⟩

/-- A row sync brings its row into agreement (42 R118). -/
theorem Syncs.rowSync (r : Fin 8) : Syncs n P (rowSyncSteps n r) fun q => q = r ∨ P q := by
  intro s hs hP
  obtain rfl := hs.n_eq
  exact ⟨_, runSteps_rowSync r hs.ready hs.calls, hs.emits _, hP.rowSync hs.chipsInv r⟩

theorem Syncs.rowSyncs (rs : List (Fin 8)) : Syncs n P (rs.flatMap (rowSyncSteps n)) fun q => q ∈ rs ∨ P q := by
  induction rs generalizing P with
  | nil => exact Syncs.nil.mono (fun _ => id) fun r hr => by simpa using hr
  | cons r rs ih =>
    rw [List.flatMap_cons]
    refine ((Syncs.rowSync r).append ih).mono (fun _ => id) fun q hq => ?_
    rw [List.mem_cons, or_assoc] at hq
    exact or_left_comm.1 hq

theorem Syncs.cfgWrite {a : Byte} (ha : isDigitAddress a = false) (v : Byte) : Syncs n P (cfgWriteSteps n a v) P := by
  intro s hs hP
  obtain rfl := hs.n_eq
  exact ⟨_, runSteps_cfgWrite s.n a v hs.ready hs.calls, hs.emits _, hP.equalPackets hs.chipsInv ha v⟩

end

/-! ### The step lists of the commands -/

/-- A pixel write and the sync of its row (41 R91, R95). -/
theorem Syncs.writeAndSync {n : Byte} {op : SeqStep} {r : Fin 8} {d : Nat} {f : Byte → Byte}
    (hop : ∀ s, op.act s = s.fbModify r d f) (hd : d < n.toNat) : Syncs n allRows (op :: rowSyncSteps n r) allRows := by
  have hwrite : Syncs n (· ≠ r) [op] (· ≠ r) := Syncs.write hop hd (fun h => h rfl)
  exact (hwrite.append (Syncs.rowSync r)).mono (fun _ _ => trivial) fun q _ => eq_or_ne q r

theorem setPixSteps_syncs (n : Byte) (x y : Int) (on : Bool) : Syncs n allRows (setPixSteps n x y on) allRows := by
  rw [setPixSteps]
  cases hl : locate n x y with
  | none => exact .nil
  | some p => exact Syncs.writeAndSync (fun _ => rfl) (locate_device_lt hl).1

theorem togglePixSteps_syncs (n : Byte) (x y : Int) : Syncs n allRows (togglePixSteps n x y) allRows := by
  rw [togglePixSteps]
  cases hl : locate n x y with
  | none => exact .nil
  | some p => exact Syncs.writeAndSync (fun _ => rfl) (locate_device_lt hl).1

theorem memWf_zeroBytes (as : List Nat) {m : List Host.Cell} (hw : memWf m = true) : memWf (zeroBytes as m) = true := by
  induction as generalizing m with
  | nil => exact hw
  | cons a as ih => exact ih (memWf_memWrite a _ hw)

/-- ClearAll brings every row into agreement, whatever rows agreed before (41 R97). -/
theorem clearAllSteps_syncs (n : Byte) (P : Fin 8 → Prop) : Syncs n P (clearAllSteps n) allRows := by
  have hzero : Syncs n (fun _ => False) (zeroSteps n) (fun _ => False) := by
    intro s hs _
    obtain rfl := hs.n_eq
    exact ⟨_, runSteps_zeroSteps s, ⟨rfl, memWf_zeroBytes _ hs.fbWf, hs.chipsInv, hs.ready, hs.calls⟩, fun _ _ h => h.elim⟩
  exact (hzero.append (Syncs.rowSyncs rows)).mono (fun _ => False.elim) fun r _ => .inl (mem_rows r)

/-- The unbatched blit is whole pixel writes (44 R141). -/
theorem blitEachSteps_syncs (n : Byte) (ox oy : Int) (sprite : Sprite) :
    Syncs n allRows (blitEachSteps n ox oy sprite) allRows :=
  Syncs.flatMap fun _ _ => setPixSteps_syncs n _ _ _

/-- The row a source bit is written to is an affected one (44 R145). -/
theorem touched_of_locate {n : Byte} {ox oy : Int} {rc : Fin 8 × Fin 8} (hrc : rc ∈ spriteCells) {p : PixelAddr}
    (h : locate n (targetX ox rc.2) (targetY oy rc.1) = some p) : touched n ox oy p.row = true := by
  obtain ⟨hv, -, hrow, -⟩ := locate_eq_some h
  exact List.any_eq_true.2 ⟨rc, hrc, by simp [hv, hrow]⟩

/-- The batched blit writes to the affected rows alone, and then syncs them all (44 R145). -/
theorem blitBatchedSteps_syncs (n : Byte) (ox oy : Int) (sprite : Sprite) :
    Syncs n allRows (blitBatchedSteps n ox oy sprite) allRows := by
  have hwrites : Syncs n (fun r => touched n ox oy r = false) (spriteCells.flatMap fun rc =>
      putPixSteps n (targetX ox rc.2) (targetY oy rc.1) (spriteBit sprite rc.1 rc.2))
      (fun r => touched n ox oy r = false) := by
    refine Syncs.flatMap fun rc hrc => ?_
    rw [putPixSteps]
    cases hl : locate n (targetX ox rc.2) (targetY oy rc.1) with
    | none => exact .nil
    | some p => exact Syncs.write (fun _ => rfl) (locate_device_lt hl).1 (by simp [touched_of_locate hrc hl])
  refine (hwrites.append (Syncs.rowSyncs _)).mono (fun _ _ => trivial) fun r _ => ?_
  cases ht : touched n ox oy r with
  | true => exact .inl (List.mem_filter.2 ⟨mem_rows r, ht⟩)
  | false => exact .inr rfl

/-- A response or a fault touches neither FB nor the chips. -/
theorem getPixSteps_syncs (n : Byte) (P : Fin 8 → Prop) (x y : Int) : Syncs n P (getPixSteps n x y) P := by
  intro s hs hP
  obtain rfl := hs.n_eq
  exact ⟨_, runSteps_getPix s x y, ⟨rfl, hs.fbWf, hs.chipsInv, hs.ready, hs.calls⟩, hP⟩

theorem Syncs.raise (n : Byte) (P : Fin 8 → Prop) (f : FaultFlag) : Syncs n P [.raise f] P := by
  intro s hs hP
  exact ⟨s.raise f, rfl, hs.raise f, by cases f <;> exact hP⟩

/-- In OPER every command, run to its end, keeps the coherence of all rows (42 R119). -/
theorem stepList_syncs {i : Instr} (hi : i.isCommand = true) {s : State} (hm : s.mode = .oper) :
    Syncs s.n allRows (stepList i s) allRows := by
  cases i with
  | init count =>
    rw [stepList, initSteps, if_pos (by rw [hm]; decide)]
    exact .raise _ _ _
  | setPixel x y on =>
    rw [stepList, setPixelSteps, operSteps_of_oper hm]
    exact setPixSteps_syncs s.n x y on
  | getPixel x y =>
    rw [stepList, getPixelSteps_of_oper hm]
    exact getPixSteps_syncs s.n _ x y
  | togglePixel x y =>
    rw [stepList, togglePixelSteps, operSteps_of_oper hm]
    exact togglePixSteps_syncs s.n x y
  | clear =>
    rw [stepList, clearSteps, operSteps_of_oper hm]
    exact clearAllSteps_syncs s.n _
  | blit ox oy sprite =>
    rw [stepList, blitSteps, operSteps_of_oper hm]
    split
    · exact blitBatchedSteps_syncs s.n ox oy sprite
    · exact blitEachSteps_syncs s.n ox oy sprite
  | _ v => cases hi

theorem commandSteps_syncs (w : CommandWord) {s : State} (hm : s.mode = .oper) :
    Syncs s.n allRows (commandSteps (decodeCommand w) s) allRows := by
  cases hd : decodeCommand w with
  | instr i =>
    intro u hu hP
    rw [commandSteps, runSteps_orFinish]
    exact stepList_syncs (decodeCommand_isCommand hd) hm u hu hP
  | reservedOpcode op => exact .raise _ _ _
  | unknownPacketAddress a => exact .raise _ _ _

/-! ### INIT (43 R128, R131) -/

/-- The fixed sequence brings every row into agreement: CLEAR does, and no configuration register is a digit register. -/
theorem initBody_syncs {cfg : Config} (hwf : cfg.wf = true) (n : Byte) (P : Fin 8 → Prop) :
    Syncs n P (initBody cfg n) allRows := by
  obtain ⟨hdigit, -⟩ := Config.configAddresses_of_wf hwf
  have hconfig : ∀ a ∈ cfg.configAddresses, ∀ (Q : Fin 8 → Prop) (v : Byte), Syncs n Q (cfgWriteSteps n a v) Q :=
    fun a ha _ v => Syncs.cfgWrite (hdigit a ha) v
  simp only [Config.configAddresses, List.forall_mem_cons] at hconfig
  obtain ⟨hscanLimit, hdisplayTest, hdecodeMode, hintensity, hshutdown, -⟩ := hconfig
  have hbefore := ((hscanLimit P cfg.valScanAll).append (hdisplayTest P cfg.valTestOff)).append
    (hdecodeMode P cfg.valDecodeRaw)
  have hclear := clearAllSteps_syncs n P
  have hafter (Q : Fin 8 → Prop) := (hintensity Q cfg.valIntensityMax).append (hshutdown Q cfg.valNormalOp)
  rw [initBody, List.append_assoc]
  exact (hbefore.append hclear).append (hafter allRows)

/-- Where a legal INIT stands once `init_transfer` has returned: N written, FB zeroed, in CONFIG (43 R131). -/
def State.initStarted (s : State) (k : Byte) : State :=
  { State.zeroFb { s with n := k } with mode := .config, tpReady := true }.emit .init

theorem runSteps_initSequence {s : State} (hc : s.tpCredit = none) (cfg : Config) (k : Byte) :
    runSteps (initSequence cfg k) s = runSteps (initBody cfg k ++ [.setMode .oper]) (s.initStarted k) := by
  have hzero : runSteps (zeroSteps k) { s with n := k } = .next (State.zeroFb { s with n := k }) :=
    runSteps_zeroSteps { s with n := k }
  have hinit : SeqStep.tpInit.act { State.zeroFb { s with n := k } with mode := .config } = .done (s.initStarted k) :=
    State.tpInit_returns (s := { State.zeroFb { s with n := k } with mode := .config }) hc
  calc runSteps (initSequence cfg k) s
    _ = runSteps (zeroSteps k ++ ([.setMode .config, .tpInit] ++ initBody cfg k ++ [.setMode .oper])) { s with n := k } := by
      rw [initSequence_eq]
      rfl
    _ = runSteps (.tpInit :: (initBody cfg k ++ [.setMode .oper]))
        { State.zeroFb { s with n := k } with mode := .config } := by
      rw [runSteps_append (by exact hc) hzero]
      rfl
    _ = runSteps (initBody cfg k ++ [.setMode .oper]) (s.initStarted k) := runSteps_cons_done hinit

/-- A legal INIT, every call returning, ends with every row in agreement (42 R119). -/
theorem runSteps_initSequence_coherentOn {s : State} (hwf : s.cfg.wf = true) (hfb : memWf s.fb = true) (hchips : s.ChipsInv)
    (hc : s.tpCredit = none) (k : Byte) :
    ∃ t, runSteps (initSequence s.cfg k) s = .next t ∧ t.CoherentOn allRows := by
  have hlive : (s.initStarted k).Live k := ⟨rfl, memWf_zeroBytes _ hfb, hchips, rfl, hc⟩
  have hbody := initBody_syncs hwf k fun _ => False
  obtain ⟨u, hrun, hu, hall⟩ := hbody (s.initStarted k) hlive fun _ _ h => h.elim
  exact ⟨{ u with mode := .oper }, by rw [runSteps_initSequence hc, runSteps_append hlive.calls hrun]; rfl, hall⟩

/-! ### A step of the block -/

/-- The block with its steps taken off and every call returning: from here a run of those steps completes (70 R188). -/
def State.unloaded (u : State) : State := { u with tpCredit := none, seq := [] }

/-- What is left to do, run until nothing is left, runs the same when every call returns (00 R14). -/
theorem runSteps_unloaded {u t : State} (h : u.resume = .next t) (ht : t.seq = []) :
    runSteps u.seq u.unloaded = .next { t with tpCredit := none } := by
  rw [State.resume_eq_advances] at h
  have hend : State.resume { u with tpCredit := none } = .next { t with tpCredit := none } := by
    rw [← advances_keep_end h]
    exact State.resume_idle ht
  exact hend

/-- What a legal INIT loads in UNINIT (43 R131). -/
theorem runSteps_commandSteps_init {s u : State} {count : Nat} (hm : s.mode = .uninit) (hl : legalCount s.cfg count = true) :
    runSteps (commandSteps (.instr (.init count)) s) u = runSteps (initSequence s.cfg (BitVec.ofNat 8 count)) u := by
  rw [commandSteps, runSteps_orFinish, stepList, initSteps, if_neg (not_not.2 hm), if_pos hl]

/-- A word accepted by an idle block, run to its end, ends in OPER with every row in agreement: it started there, or was INIT. -/
theorem State.Inv.acceptWord_coherentOn {s t : State} (hs : s.Inv) (hwf : s.cfg.wf = true) (hq : s.seq = [])
    (hcoh : s.mode = .oper → s.Coherent) {w : CommandWord} (h : (s.acceptWord (decodeCommand w)).resume = .next t)
    (ht : t.seq = []) (hm : t.mode = .oper) : t.CoherentOn allRows := by
  obtain ⟨-, hmoves⟩ := (hs.acceptWord hq w).resume_modeMoves h
  have hrun := runSteps_unloaded h ht
  have hmode := hs.idle_mode hq
  obtain ⟨⟨hfb, -⟩, hchips, -, -, hready, -⟩ := hs
  rw [State.acceptWord_seq] at hrun
  suffices hend : ∃ v, runSteps (commandSteps (decodeCommand w) s) (s.acceptWord (decodeCommand w)).unloaded = .next v ∧
      v.CoherentOn allRows by
    obtain ⟨v, hv, hall⟩ := hend
    obtain rfl : { t with tpCredit := none } = v := Host.Outcome.next.inj (hrun.symm.trans hv)
    exact hall
  rcases hmode with ⟨hu, -⟩ | ho
  · have hload : .setMode .config ∈ commandSteps (decodeCommand w) s := by
      rcases hmoves with hsame | ⟨-, hload, -⟩
      · rw [hm, State.acceptWord_mode, hu] at hsame
        cases hsame
      · exact hload hu
    obtain ⟨count, hd, -, hl⟩ := (s.loads_commandSteps w).init_of_setMode hload
    rw [hd, runSteps_commandSteps_init hu hl]
    exact runSteps_initSequence_coherentOn (s := (s.acceptWord _).unloaded) hwf hfb hchips rfl _
  · obtain ⟨v, hv, -, hall⟩ := commandSteps_syncs w ho (s.acceptWord (decodeCommand w)).unloaded
      ⟨rfl, hfb, hchips, hready ho, rfl⟩ ((hcoh ho).coherentOn allRows)
    exact ⟨v, hv, hall⟩

/-- Settles O39: a reset leaves OPER, an idle step leaves FB and the chips, and a command that completes ends with every row in
agreement, in the chips that are there, which are all N. -/
theorem stepKeepsCoherence : Obligations.StepKeepsCoherence := by
  intro s t hwf hs hq hcoh h hreach ht hm
  rcases hs.step_cases with ⟨-, hstep, -⟩ | ⟨hbusy, -⟩ | ⟨w, ws, -, -, hstep, -⟩ | ⟨-, hstep, -⟩
  · rw [hstep] at h
    cases h
    cases hm
  · exact absurd hq hbusy
  · exact (hs.acceptWord_coherentOn hwf hq hcoh (hstep ▸ h) ht hm).coherent hreach
  · rw [hstep] at h
    cases h
    exact hcoh hm

/-! ### The chain, the row sync and the display -/

/-- The shift register once a byte has entered, and the byte that has left it (42 R115). -/
theorem toNat_shifted (sr : BitVec 16) (b : Byte) :
    (mkPacket (packetValue sr) b).toNat = sr.toNat % 256 * 256 + b.toNat ∧ (packetAddr sr).toNat = sr.toNat / 256 := by
  have hsr := sr.isLt
  have hb := b.isLt
  constructor
  · rw [mkPacket, packetValue, BitVec.toNat_append, BitVec.extractLsb'_toNat, Nat.shiftRight_zero,
      ← Nat.shiftLeft_add_eq_or_of_lt hb, Nat.shiftLeft_eq]
  · rw [packetAddr, BitVec.extractLsb'_toNat, Nat.shiftRight_eq_div_pow]
    omega

/-- Settles O33: by induction on the chain, the byte that leaves a chip being the one that enters the next. -/
theorem sendShiftsChain : Obligations.SendShiftsChain := by
  intro cfg cs b
  refine ⟨wire_length cfg cs _, ?_⟩
  show chainValue (shiftIn b cs) = _
  induction cs generalizing b with
  | nil => simp [shiftIn, chainValue, Nat.mod_one]
  | cons c cs ih =>
    obtain ⟨hsr, hout⟩ := toNat_shifted c.sr b
    have hpow : 2 ^ (16 * (c :: cs).length) = 65536 * 2 ^ (16 * cs.length) := by
      rw [List.length_cons, Nat.mul_succ, Nat.pow_add, Nat.mul_comm]
    have hb := b.isLt
    have hlow : ((c.sr.toNat + 65536 * chainValue cs) * 256 + b.toNat) % 65536 = c.sr.toNat % 256 * 256 + b.toNat := by
      omega
    have hhigh : ((c.sr.toNat + 65536 * chainValue cs) * 256 + b.toNat) / 65536 = chainValue cs * 256 + c.sr.toNat / 256 := by
      omega
    rw [shiftIn_cons, chainValue, chainValue, ih, hsr, hout, hpow, Nat.mod_mul, hlow, hhigh]

/-- Settles O34: the chain holds the packets, the last in chip 0, and behind them what it held. -/
theorem packetsLandFarthestFirst : Obligations.PacketsLandFarthestFirst := by
  constructor
  · intro cfg cs ps i p hlen hp
    obtain ⟨hi, -⟩ := List.getElem?_eq_some_iff.1 hp
    have hback : ps.length - 1 - (ps.length - 1 - i) = i := by omega
    exact map_sr_of_packets cfg Prod.fst Prod.snd (by rw [List.getElem?_reverse (by omega), hback, hp]) hlen
  · intro cfg cs ps j hlen
    rw [← List.getElem?_map, foldl_wire_packets_map_sr, List.getElem?_take_of_lt hlen,
      List.getElem?_append_right (by simp)]
    simp

/-- Settles O35: what a latch does to one chip, and that no other event touches a register. -/
theorem latchCommitsPackets : Obligations.LatchCommitsPackets := by
  refine ⟨fun cfg cs j c a v hc hw hsr => ⟨c.latch cfg, wire_latch_of_chip cfg hc, chip_latch_sr cfg c, fun b => ?_⟩,
    fun cfg cs e he => wire_map_reg he cs⟩
  rw [memRead_latch cfg hw, hsr, packetAddr_mkPacket, packetValue_mkPacket]

/-- Settles O36: before the latch no register changes, and the latch writes the row's bytes and nothing else. -/
theorem rowSyncLands : Obligations.RowSyncLands := by
  intro s r hr hc hs hreach
  refine ⟨_, runSteps_rowSync r hr hc, rfl, rfl, fun d hd => ?_, fun d a hd ha => ?_, fun k j a hk => ?_⟩
  · exact State.chipReg_emits_rowSync_same hs hd (lt_of_lt_of_le hd hreach)
  · exact State.chipReg_emits_rowSync hs hd ha
  · rw [State.rowSyncEvents_length] at hk
    exact s.chipReg_emits_rowSync_take r (Nat.le_of_lt_succ hk) j a

/-- Settles O40: the LED shows bit `7 - x mod 8` of the digit register, by coherence the byte that `get_pixel` reads. -/
theorem displayShowsCanvas : Obligations.DisplayShowsCanvas := by
  constructor
  · intro s x y hcoh _ hx hconf
    have hv : valid s.n (x : Int) (y.val : Int) = true := valid_iff.2 (by omega)
    have hrow : (address (x : Int) (y.val : Int)).row = y :=
      Fin.ext (Int.ofNat.inj (address_row_val (by omega) (by omega)))
    rw [State.ledLit, if_pos hconf, hcoh y (x / 8) (by omega), State.pixelOn_of_valid hv, State.bitAt, hrow,
      address_bit_val]
    rfl
  · intro s x y hlen
    have hconf : s.chipConfigured (x / 8) = false := decide_eq_false fun h => absurd h.1 (by omega)
    rw [State.ledLit, hconf]
    rfl

end Sys2Proof.Machine
end

section
/-!
PROOFS. The protocol encoder and INIT family: packets sent alone (43 R125), the result of INIT and the state it leaves (43 R131 to
R134), its frame, that `init_transfer` is called once (43 R133 (d)), and that no later step writes a configuration register (43
R135).
-/

/- As in the state family above: these proofs too are elaborated one after another, for the memory limit of the check. -/
set_option deprecated.oldSectionVars true

namespace Sys2Proof.Machine

/-! ### A packet sent alone, whether it completes or waits (43 R125) -/

theorem sendPacketSteps_calls (s : State) (a v : Byte) : Calls s (sendPacketSteps a v) (packetEvents a v) :=
  ⟨rfl, by simp [packetEvents]⟩

/-- Settles O52: a packet is two calls, neither of them a latch, of which some first ones return. -/
theorem packetFrame : Obligations.PacketFrame := by
  intro i s t hi h
  obtain ⟨a, v, hlist⟩ := stepList_packet i s hi
  rw [exec_packet i s hi, hlist] at h
  obtain ⟨k, c, -, -, rfl⟩ := runSteps_calls (sendPacketSteps_calls s a v) h
  refine ⟨rfl, List.prefix_append _ _, foldl_wire_map_reg (fun hmem => ?_) s.chips⟩
  have hlatch : .latch ∈ packetEvents a v := List.mem_of_mem_take hmem
  simp [packetEvents] at hlatch

/-! ### The events of INIT as register writes (43 R128, R132) -/

/-- The events of register writes one after another, each to all of `n` chips (43 R127). -/
def writesEvents (n : Nat) (ws : List (Byte × Byte)) : List Event := ws.flatMap fun w => equalPackets n w.1 w.2

/-- The configuration writes of INIT before its CLEAR, address and value (43 R128). -/
def writesBeforeClear (c : Config) : List (Byte × Byte) :=
  [(c.regScanLimit, c.valScanAll), (c.regDisplayTest, c.valTestOff), (c.regDecodeMode, c.valDecodeRaw)]

/-- The configuration writes of INIT after its CLEAR (43 R128). -/
def writesAfterClear (c : Config) : List (Byte × Byte) :=
  [(c.regIntensity, c.valIntensityMax), (c.regShutdown, c.valNormalOp)]

/-- What INIT writes to every chip, in the order of the fixed sequence: CLEAR, FB being zero, writes 0x00 to each digit register
(43 R128, R132). -/
def initWrites (c : Config) : List (Byte × Byte) :=
  writesBeforeClear c ++ rows.map (fun r => (digitReg r, 0#8)) ++ writesAfterClear c

theorem initEvents_eq_writes (c : Config) (n : Nat) : initEvents c n = .init :: writesEvents n (initWrites c) := by
  simp [initEvents, clearEvents, writesEvents, initWrites, writesBeforeClear, writesAfterClear, List.flatMap_map]

/-- INIT writes the five configuration registers and the eight digit registers (43 R134). -/
theorem initWrites_addresses_perm (c : Config) :
    ((initWrites c).map Prod.fst).Perm (c.configAddresses ++ rows.map digitReg) := by
  have hsplit : (initWrites c).map Prod.fst = [c.regScanLimit, c.regDisplayTest, c.regDecodeMode] ++
      (rows.map digitReg ++ [c.regIntensity, c.regShutdown]) := by
    simp [initWrites, writesBeforeClear, writesAfterClear, Function.comp_def]
  rw [hsplit]
  exact List.perm_append_comm.append_left _

theorem initWrites_addresses_nodup {c : Config} (h : c.wf = true) : ((initWrites c).map Prod.fst).Nodup := by
  obtain ⟨hdigit, hnodup⟩ := Config.configAddresses_of_wf h
  rw [(initWrites_addresses_perm c).nodup_iff, List.nodup_append]
  refine ⟨hnodup, by decide, ?_⟩
  rintro a ha b hb rfl
  obtain ⟨r, -, rfl⟩ := List.mem_map.1 hb
  exact absurd (hdigit _ ha) (by simp [digitReg_isDigitAddress])

theorem isChipRegister_of_mem_initWrites {c : Config} {a : Byte} (h : a ∈ (initWrites c).map Prod.fst) :
    isChipRegister c a = true := by
  rcases List.mem_append.1 ((initWrites_addresses_perm c).mem_iff.1 h) with hconfig | hdigit
  · simp [isChipRegister, hconfig]
  · obtain ⟨r, -, rfl⟩ := List.mem_map.1 hdigit
    exact isChipRegister_digitReg c r

/-! ### What register writes leave in the chips (43 R127) -/

/-- A write puts its value into the register of every chip it reaches. -/
theorem State.chipReg_emits_equalPackets_same {s : State} (hs : s.ChipsInv) {n j : Nat} (hj : j < n)
    (hlen : j < s.chips.length) {a : Byte} (v : Byte) (ha : isChipRegister s.cfg a = true) :
    (s.emits (equalPackets n a v)).chipReg j a = v := by
  rw [equalPackets_eq_flatMap, ← State.emits_emits, State.emits_singleton]
  obtain ⟨c, hc⟩ : ∃ c, (s.emits ((List.range n).flatMap fun _ => packetEvents a v)).chips[j]? = some c :=
    ⟨_, List.getElem?_eq_getElem (by simpa using hlen)⟩
  have hpacket : c.sr = mkPacket a v :=
    State.sr_of_packets (x := n - 1 - j) (fun _ => a) (fun _ => v) (by simp [hj]) hc
  exact State.chipReg_latch_of_packet (hs.emits _) hc hpacket ha

theorem State.emits_writesEvents_cons (s : State) (n : Nat) (w : Byte × Byte) (ws : List (Byte × Byte)) :
    s.emits (writesEvents n (w :: ws)) = (s.emits (equalPackets n w.1 w.2)).emits (writesEvents n ws) := by
  rw [State.emits_emits, writesEvents, writesEvents, List.flatMap_cons]

/-- Writes to other registers leave a register as it was. -/
theorem State.chipReg_emits_writes_of_not_mem {s : State} (hs : s.ChipsInv) {n j : Nat} (hj : j < n)
    {ws : List (Byte × Byte)} {a : Byte} (ha : a ∉ ws.map Prod.fst) :
    (s.emits (writesEvents n ws)).chipReg j a = s.chipReg j a := by
  induction ws generalizing s with
  | nil => exact congrArg (State.chipReg · j a) s.emits_nil
  | cons w ws ih =>
    obtain ⟨hne, hws⟩ := not_or.1 (mt List.mem_cons.2 ha)
    rw [State.emits_writesEvents_cons, ih (hs.emits _) hws, State.chipReg_emits_equalPackets hs hj hne]

/-- After writes to different registers each of them holds its value. -/
theorem State.chipReg_emits_writes {s : State} (hs : s.ChipsInv) {n j : Nat} (hj : j < n) (hlen : j < s.chips.length)
    {ws : List (Byte × Byte)} (hnodup : (ws.map Prod.fst).Nodup) {a v : Byte} (hmem : (a, v) ∈ ws)
    (ha : isChipRegister s.cfg a = true) : (s.emits (writesEvents n ws)).chipReg j a = v := by
  induction ws generalizing s with
  | nil => cases hmem
  | cons w ws ih =>
    obtain ⟨hhead, htail⟩ := List.nodup_cons.1 hnodup
    rw [State.emits_writesEvents_cons]
    rcases List.mem_cons.1 hmem with rfl | hmem
    · rw [State.chipReg_emits_writes_of_not_mem (hs.emits _) hj hhead, State.chipReg_emits_equalPackets_same hs hj hlen v ha]
    · exact ih (hs.emits _) (by simpa using hlen) htail hmem ha

/-! ### The result of INIT (43 R131, R132) -/

theorem runSteps_cfgWrites {s : State} (n : Byte) (ws : List (Byte × Byte)) (hr : s.tpReady = true) (hc : s.tpCredit = none) :
    runSteps (ws.flatMap fun w => cfgWriteSteps n w.1 w.2) s = .next (s.emits (writesEvents n.toNat ws)) := by
  induction ws generalizing s with
  | nil => exact congrArg _ s.emits_nil.symm
  | cons w ws ih =>
    rw [List.flatMap_cons, runSteps_append hc (runSteps_cfgWrite n w.1 w.2 hr hc), State.emits_writesEvents_cons]
    exact ih (s := s.emits _) hr hc

theorem initBody_eq_writes (c : Config) (n : Byte) :
    initBody c n = ((writesBeforeClear c).flatMap fun w => cfgWriteSteps n w.1 w.2) ++ clearAllSteps n ++
      ((writesAfterClear c).flatMap fun w => cfgWriteSteps n w.1 w.2) := by
  simp [initBody, writesBeforeClear, writesAfterClear]

/-- The fixed sequence, every call returning: FB zeroed once more, and its writes (43 R128). -/
theorem runSteps_initBody {s : State} (hw : memWf s.fb = true) (hr : s.tpReady = true) (hc : s.tpCredit = none) (c : Config) :
    runSteps (initBody c s.n) s = .next (s.zeroFb.emits (writesEvents s.n.toNat (initWrites c))) := by
  have hclear : runSteps (((writesBeforeClear c).flatMap fun w => cfgWriteSteps s.n w.1 w.2) ++ clearAllSteps s.n) s =
      .next ((s.emits (writesEvents s.n.toNat (writesBeforeClear c))).zeroFb.emits (clearEvents s.n.toNat)) :=
    (runSteps_append hc (runSteps_cfgWrites s.n _ hr hc)).trans (runSteps_clearAll (s := s.emits _) hw hr hc)
  have hevents : writesEvents s.n.toNat (initWrites c) = writesEvents s.n.toNat (writesBeforeClear c) ++
      clearEvents s.n.toNat ++ writesEvents s.n.toNat (writesAfterClear c) := by
    simp [writesEvents, initWrites, clearEvents, List.flatMap_map]
  rw [initBody_eq_writes, runSteps_append hc hclear, runSteps_cfgWrites _ _ (by exact hr) (by exact hc), hevents,
    ← State.emits_emits, ← State.emits_emits]
  rfl

/-- The block after a legal INIT of count `k`, every call returning (43 R131, R134). -/
def State.initialised (s : State) (k : Byte) : State :=
  { s with
    n := k, mode := .oper, fb := zeroBytes (fbAddrs k) (zeroBytes (fbAddrs k) s.fb), tpReady := true }.emits
      (initEvents s.cfg k.toNat)

theorem runSteps_initSequence_returns {s : State} (hw : memWf s.fb = true) (hc : s.tpCredit = none) (k : Byte) :
    runSteps (initSequence s.cfg k) s = .next (s.initialised k) := by
  have hbody : runSteps (initBody s.cfg k) (s.initStarted k) =
      .next ((s.initStarted k).zeroFb.emits (writesEvents k.toNat (initWrites s.cfg))) :=
    runSteps_initBody (s := s.initStarted k) (memWf_zeroBytes _ hw) rfl hc s.cfg
  rw [runSteps_initSequence hc, runSteps_append (by exact hc) hbody, State.initialised, initEvents_eq_writes,
    State.emits_cons]
  rfl

/-- What an idle block in UNINIT runs for a legal INIT (43 R131). -/
theorem initSteps_of_legal {s : State} {count : Nat} (hm : s.mode = .uninit) (h1 : 1 ≤ count)
    (hmax : count ≤ s.cfg.nMax.toNat) : initSteps s count = initSequence s.cfg (BitVec.ofNat 8 count) := by
  rw [initSteps, if_neg (not_not.2 hm), if_pos (by exact decide_eq_true ⟨h1, hmax⟩)]

theorem exec_init_of_legal {s : State} {count : Nat} (hq : s.seq = []) (hm : s.mode = .uninit) (hc : s.tpCredit = none)
    (hw : memWf s.fb = true) (h1 : 1 ≤ count) (hmax : count ≤ s.cfg.nMax.toNat) :
    exec (.init count) s = .next (s.initialised (BitVec.ofNat 8 count)) := by
  rw [exec_idle _ s hq, stepList, initSteps_of_legal hm h1 hmax, runSteps_initSequence_returns hw hc]

theorem toNat_of_legal {c : Config} {count : Nat} (h1 : 1 ≤ count) (hmax : count ≤ c.nMax.toNat) :
    (BitVec.ofNat 8 count).toNat = count :=
  (toNat_of_legalCount (decide_eq_true ⟨h1, hmax⟩)).1

/-- INIT leaves every byte of FB 0x00 (43 R131). -/
theorem State.fbByte_initialised {s : State} (hw : memWf s.fb = true) {k : Byte} {d : Nat} (hd : d < k.toNat) (r : Fin 8) :
    (s.initialised k).fbByte r d = 0#8 :=
  State.fbByte_zeroFb (s := State.zeroFb { s with n := k }) (memWf_zeroBytes _ hw) hd r

/-- Settles O16: the run of the fixed sequence. -/
theorem initResult : Obligations.InitResult := by
  intro s count hq hm hc hw h1 hmax
  have hk := toNat_of_legal h1 hmax
  refine ⟨(s.initialised (BitVec.ofNat 8 count)).fb, ?_, fun r d hd => State.fbByte_initialised hw (hk.symm ▸ hd) r⟩
  rw [exec_init_of_legal hq hm hc hw h1 hmax, State.initialised, hk]
  rfl

/-! ### The state INIT leaves (43 R134) -/

/-- Every register INIT writes holds its value in each of the chips INIT reaches. -/
theorem State.chipReg_initialised {s : State} (hwf : s.cfg.wf = true) (hs : s.ChipsInv) {k : Byte} {j : Nat}
    (hj : j < k.toNat) (hlen : j < s.chips.length) {a v : Byte} (hmem : (a, v) ∈ initWrites s.cfg) :
    (s.initialised k).chipReg j a = v := by
  rw [State.initialised, initEvents_eq_writes, State.emits_cons]
  exact State.chipReg_emits_writes (s := State.emit _ .init) hs hj hlen (initWrites_addresses_nodup hwf) hmem
    (isChipRegister_of_mem_initWrites (List.mem_map_of_mem hmem))

theorem State.pixelOn_initialised {s : State} (hw : memWf s.fb = true) (k : Byte) (x y : Int) :
    (s.initialised k).pixelOn x y = false :=
  State.pixelOn_zeroFb (s := State.zeroFb { s with n := k }) (memWf_zeroBytes _ hw) x y

/-- Settles O21: FB is zero, and the chips hold what INIT writes to them, 0x00 in the digit registers. -/
theorem initEstablishesCanvas : Obligations.InitEstablishesCanvas := by
  rintro s count hwf ⟨⟨hw, -⟩, hchips, -⟩ hq hm hc h1 hmax hreach
  have hk := toNat_of_legal h1 hmax
  have hfb : ∀ (r : Fin 8) (d : Nat), d < count → (s.initialised (BitVec.ofNat 8 count)).fbByte r d = 0#8 :=
    fun r d hd => State.fbByte_initialised hw (hk.symm ▸ hd) r
  have hreg {j : Nat} (hj : j < count) {a v : Byte} (hmem : (a, v) ∈ initWrites s.cfg) :
      (s.initialised (BitVec.ofNat 8 count)).chipReg j a = v :=
    State.chipReg_initialised hwf hchips (hk.symm ▸ hj) (lt_of_lt_of_le hj hreach) hmem
  have hdigit {j : Nat} (hj : j < count) (r : Fin 8) :
      (s.initialised (BitVec.ofNat 8 count)).chipReg j (digitReg r) = 0#8 :=
    hreg hj (by simp [initWrites, mem_rows])
  refine ⟨_, exec_init_of_legal hq hm hc hw h1 hmax, rfl, hk, hfb, fun f => by cases f <;> rfl, ?_,
    fun j hj => ⟨hdigit hj, ?_, ?_, ?_, ?_, ?_⟩, fun r d hd => ?_, State.pixelOn_initialised hw _⟩
  · exact (State.busy_eq_false_iff _).2 hq
  · exact hreg hj (by simp [initWrites, writesBeforeClear])
  · exact hreg hj (by simp [initWrites, writesBeforeClear])
  · exact hreg hj (by simp [initWrites, writesBeforeClear])
  · exact hreg hj (by simp [initWrites, writesAfterClear])
  · exact hreg hj (by simp [initWrites, writesAfterClear])
  · have hd : d < count := hk ▸ hd
    rw [hdigit hd, hfb r d hd]

/-! ### The frame of INIT (43 R131, R133) -/

/-- A step of a legal INIT once N is written (43 R131). -/
def SeqStep.AfterWriteN (n : Byte) (op : SeqStep) : Prop := op.inBody n = true ∨ (∃ m, op = .setMode m) ∨ op = .tpInit

theorem initSequence_afterWriteN (c : Config) (n : Byte) :
    ∃ q, initSequence c n = .writeN n :: q ∧ ∀ op ∈ q, op.AfterWriteN n := by
  refine ⟨_, (initSequence_eq c n).trans (List.cons_append ..), fun op hmem => ?_⟩
  simp only [List.mem_append, List.mem_cons, List.not_mem_nil, or_false] at hmem
  rcases hmem with hzero | ((rfl | rfl) | hbody) | rfl
  · exact .inl (SeqStep.inBody_of_zeroes (List.all_eq_true.1 (zeroSteps_zeroes n) op hzero))
  · exact .inr (.inl ⟨_, rfl⟩)
  · exact .inr (.inr rfl)
  · exact .inl (List.all_eq_true.1 (initBody_inBody c n) op hbody)
  · exact .inr (.inl ⟨_, rfl⟩)

/-- What the steps of INIT leave alone once N is written: N, the response, the flags, the number of chips and every address that
is no byte of FB. -/
structure State.InitLeaves (s t : State) : Prop where
  n_eq : t.n = s.n
  fbWf : memWf t.fb = true
  rsp_eq : t.rsp = s.rsp
  rspValid_eq : t.rspValid = s.rspValid
  flag_eq : ∀ f, t.flag f = s.flag f
  chips_length : t.chips.length = s.chips.length
  memRead_eq : ∀ a : Nat, ¬ s.IsFbAddr a → memRead t.fb a = memRead s.fb a

theorem State.InitLeaves.refl {s : State} (hw : memWf s.fb = true) : s.InitLeaves s :=
  ⟨rfl, hw, rfl, rfl, fun _ => rfl, rfl, fun _ _ => rfl⟩

theorem State.IsFbAddr.congr {s t : State} (hn : t.n = s.n) (a : Nat) : t.IsFbAddr a ↔ s.IsFbAddr a := by
  rw [State.IsFbAddr, State.IsFbAddr, hn]

theorem State.InitLeaves.trans {s t u : State} (h : s.InitLeaves t) (h' : t.InitLeaves u) : s.InitLeaves u where
  n_eq := h'.n_eq.trans h.n_eq
  fbWf := h'.fbWf
  rsp_eq := h'.rsp_eq.trans h.rsp_eq
  rspValid_eq := h'.rspValid_eq.trans h.rspValid_eq
  flag_eq f := (h'.flag_eq f).trans (h.flag_eq f)
  chips_length := h'.chips_length.trans h.chips_length
  memRead_eq a ha := (h'.memRead_eq a (mt (State.IsFbAddr.congr h.n_eq a).1 ha)).trans (h.memRead_eq a ha)

/-- Everything a step of a command's body can do: write one byte of FB that exists, or make one send or latch. -/
theorem SeqStep.act_inBody_cases {op : SeqStep} {s t : State} (hop : op.inBody s.n = true) (h : op.act s = .done t) :
    (∃ r d v, d < s.n.toNat ∧ t = s.fbStore r d v) ∨
    (∃ e, e ≠ .init ∧ t = { s with tpCredit := spendCredit s.tpCredit }.emit e) := by
  rcases SeqStep.act_done_cases h with ⟨n, rfl, -⟩ | ⟨m, rfl, -⟩ | ⟨r, d, v, hd, -, rfl⟩ | ⟨b, -, hb⟩ |
    ⟨f, rfl, -⟩ | ⟨rfl, -⟩ | ⟨e, he, -, -, -, rfl⟩ | ⟨rfl, -⟩
  · cases hop
  · cases hop
  · exact .inl ⟨r, d, v, hd, rfl⟩
  · rw [hb] at hop
    cases hop
  · cases hop
  · cases hop
  · exact .inr ⟨e, he, rfl⟩
  · cases hop

theorem SeqStep.act_initLeaves {op : SeqStep} {s t : State} (hw : memWf s.fb = true) (hop : op.AfterWriteN s.n)
    (h : op.act s = .done t) : s.InitLeaves t := by
  rcases hop with hbody | ⟨m, rfl⟩ | rfl
  · rcases SeqStep.act_inBody_cases hbody h with ⟨r, d, v, hd, rfl⟩ | ⟨e, -, rfl⟩
    · refine ⟨rfl, memWf_memWrite _ _ hw, rfl, rfl, fun f => by cases f <;> rfl, rfl, fun a ha => ?_⟩
      rw [State.fbStore_fb, memRead_memWrite _ _ _ hw, if_neg fun heq => ha ⟨r, d, hd, heq⟩]
    · exact ⟨rfl, hw, rfl, rfl, fun f => by cases f <;> rfl, wire_length _ _ _, fun _ _ => rfl⟩
  · cases h
    exact ⟨rfl, hw, rfl, rfl, fun f => by cases f <;> rfl, rfl, fun _ _ => rfl⟩
  · obtain ⟨-, rfl⟩ := State.tpInit_done h
    exact ⟨rfl, hw, rfl, rfl, fun f => by cases f <;> rfl, rfl, fun _ _ => rfl⟩

/-- A legal INIT, whether it completes or waits, leaves what its steps leave once N is written. -/
theorem runSteps_initSequence_leaves {s t : State} (hw : memWf s.fb = true) {k : Byte}
    (h : runSteps (initSequence s.cfg k) s = .next t) : State.InitLeaves { s with n := k } t := by
  obtain ⟨q, hlist, hq⟩ := initSequence_afterWriteN s.cfg k
  rw [hlist, runSteps_cons_done (t := { s with n := k }) rfl] at h
  refine runSteps_induct (P := State.InitLeaves { s with n := k }) ?_ (fun u _ hu => ?_) (.refl hw) h
  · intro op hmem u v hu hact
    exact hu.trans (SeqStep.act_initLeaves hu.fbWf (by rw [hu.n_eq]; exact hq op hmem) hact)
  · exact hu.trans ⟨rfl, hu.fbWf, rfl, rfl, fun f => by cases f <;> rfl, rfl, fun _ _ => rfl⟩

/-- What INIT can do: nothing when the block is busy, one fault, or the fixed sequence (43 R131, R133). -/
theorem exec_init_cases {s t : State} {count : Nat} (h : exec (.init count) s = .next t) :
    t = s ∨ (s.mode ≠ .uninit ∧ t = s.raise .seq) ∨
      (s.mode = .uninit ∧ legalCount s.cfg count = false ∧ t = s.raise .badn) ∨
      (s.mode = .uninit ∧ runSteps (initSequence s.cfg (BitVec.ofNat 8 count)) s = .next t) := by
  by_cases hq : s.seq = []
  · rw [exec_idle _ s hq, stepList, initSteps] at h
    by_cases hm : s.mode = .uninit
    · rw [if_neg (not_not.2 hm)] at h
      cases hl : legalCount s.cfg count with
      | true => exact .inr (.inr (.inr ⟨hm, by rwa [if_pos hl] at h⟩))
      | false =>
        rw [if_neg (by simp [hl])] at h
        cases h
        exact .inr (.inr (.inl ⟨hm, rfl, rfl⟩))
    · rw [if_pos hm] at h
      cases h
      exact .inr (.inl ⟨hm, rfl⟩)
  · rw [exec_command _ s rfl, State.accept_busy s _ hq] at h
    cases h
    exact .inl rfl

/-- Settles O51: a refused INIT raises its fault and nothing else, a legal one writes N and leaves what its steps leave. -/
theorem initFrame : Obligations.InitFrame := by
  intro s t count hw h
  rcases exec_init_cases h with rfl | ⟨hm, rfl⟩ | ⟨hm, hl, rfl⟩ | ⟨hm, hrun⟩
  · simp
  · simp [hm, State.raise]
  · simp [hm, hl, State.raise]
  · obtain ⟨hcfg, hhost, hrst, henc, hfree⟩ := runSteps_frame hrun
    have hleaves := runSteps_initSequence_leaves hw hrun
    exact ⟨hcfg, hleaves.rsp_eq, hleaves.rspValid_eq, hleaves.flag_eq .illop, hhost, hrst, henc, hfree,
      hleaves.chips_length, fun _ => hleaves.flag_eq .seq, fun hne => absurd hm hne, fun _ => hleaves.flag_eq .badn,
      fun a ha => hleaves.memRead_eq a (mt (State.IsFbAddr.congr hleaves.n_eq a).2 ha)⟩

/-! ### `init_transfer` is called once (43 R133 (d), 10 R37) -/

/-- The events added while the transport goes from `ready` to `ready'`: no `I` once it is set up; before that none at all, or
one `I` first, which sets it up. -/
def InitOnce (ready ready' : Bool) (es : List Event) : Prop :=
  (ready = true → ready' = true ∧ initCount es = 0) ∧
    (ready = false → (ready' = false ∧ es = []) ∨ (ready' = true ∧ ∃ fs, es = .init :: fs ∧ initCount fs = 0))

theorem InitOnce.none (ready : Bool) : InitOnce ready ready [] := by
  cases ready <;> simp [InitOnce, initCount]

theorem initCount_append (es fs : List Event) : initCount (es ++ fs) = initCount es + initCount fs :=
  List.countP_append

theorem InitOnce.append {a b c : Bool} {es fs : List Event} (h : InitOnce a b es) (h' : InitOnce b c fs) :
    InitOnce a c (es ++ fs) := by
  obtain ⟨hready, hnot⟩ := h
  obtain ⟨hready', hnot'⟩ := h'
  constructor
  · intro ha
    obtain ⟨hb, hes⟩ := hready ha
    obtain ⟨hc, hfs⟩ := hready' hb
    exact ⟨hc, by rw [initCount_append, hes, hfs]⟩
  · intro ha
    rcases hnot ha with ⟨hb, rfl⟩ | ⟨hb, gs, rfl, hgs⟩
    · exact hnot' hb
    · obtain ⟨hc, hfs⟩ := hready' hb
      exact .inr ⟨hc, gs ++ fs, rfl, by rw [initCount_append, hgs, hfs]⟩

/-- A block of the invariant that stands at `init_transfer` has not set the transport up. -/
theorem State.Inv.not_ready_of_tpInit {s : State} (hs : s.Inv) {q : List SeqStep} (hq : s.seq = .tpInit :: q) :
    s.tpReady = false := by
  cases hs.todo hq with
  | @initTransfer rest hm =>
    obtain ⟨-, -, -, -, ⟨body, hbody, hseq⟩, -⟩ := (State.inv_config_iff hm).1 hs
    cases hr : s.tpReady with
    | false => rfl
    | true =>
      have hhead : body ++ [.setMode .oper] = .tpInit :: (rest ++ [.setMode .oper]) := by
        simpa [hr, hq] using hseq.symm
      cases body with
      | nil => cases hhead
      | cons op ops =>
        obtain ⟨rfl, -⟩ := List.cons.inj hhead
        simp [SeqStep.inBody] at hbody
  | zero _ _ hop => cases hop
  | configBody _ _ hop => cases hop
  | operBody _ _ hop => cases hop
  | reply _ hreply =>
    obtain ⟨-, -, hne, -⟩ := hreply.head
    exact absurd rfl hne

/-- What a step does to the trace, the transport and the chips: nothing, `init_transfer`, or one later call. -/
theorem SeqStep.act_event_cases {op : SeqStep} {s t : State} (h : op.act s = .done t) :
    (t.trace = s.trace ∧ t.tpReady = s.tpReady ∧ t.chips = s.chips) ∨
    (op = .tpInit ∧ t.trace = s.trace ++ [.init] ∧ t.tpReady = true) ∨
    (∃ e, e ≠ .init ∧ s.tpReady = true ∧ t.tpReady = true ∧ t.trace = s.trace ++ [e]) := by
  rcases SeqStep.act_done_cases h with ⟨n, -, rfl⟩ | ⟨m, -, rfl⟩ | ⟨r, d, v, -, -, rfl⟩ | ⟨b, rfl, -⟩ |
    ⟨f, -, rfl⟩ | ⟨rfl, -, rfl⟩ | ⟨e, he, -, hr, -, rfl⟩ | ⟨-, rfl⟩
  · exact .inl ⟨rfl, rfl, rfl⟩
  · exact .inl ⟨rfl, rfl, rfl⟩
  · exact .inl ⟨rfl, rfl, rfl⟩
  · exact .inl ⟨rfl, rfl, rfl⟩
  · exact .inl ⟨s.raise_trace f, s.raise_tpReady f, s.raise_chips f⟩
  · exact .inr (.inl ⟨rfl, rfl, rfl⟩)
  · exact .inr (.inr ⟨e, he, hr, hr, rfl⟩)
  · exact .inl ⟨rfl, rfl, rfl⟩

theorem initCount_singleton {e : Event} (h : e ≠ .init) : initCount [e] = 0 := by
  cases e with
  | init => exact absurd rfl h
  | _ => rfl

theorem SeqStep.act_initOnce {op : SeqStep} {s t : State} (h : op.act s = .done t)
    (hinit : op = .tpInit → s.tpReady = false) : ∃ es, t.trace = s.trace ++ es ∧ InitOnce s.tpReady t.tpReady es := by
  rcases SeqStep.act_event_cases h with ⟨htrace, hr, -⟩ | ⟨hop, htrace, hr⟩ | ⟨e, he, hr, hr', htrace⟩
  · exact ⟨[], by rw [htrace, List.append_nil], hr ▸ .none _⟩
  · rw [hinit hop, hr]
    exact ⟨[.init], htrace, nofun, fun _ => .inr ⟨rfl, [], rfl, rfl⟩⟩
  · rw [hr, hr']
    exact ⟨[e], htrace, fun _ => ⟨rfl, initCount_singleton he⟩, nofun⟩

theorem State.Inv.advance_initOnce {s t : State} (hs : s.Inv) (h : s.advance = .next t) :
    ∃ es, t.trace = s.trace ++ es ∧ InitOnce s.tpReady t.tpReady es := by
  rcases hs.advance_cases h with rfl | ⟨op, rest, hq, -, ha, -⟩
  · exact ⟨[], (List.append_nil _).symm, .none _⟩
  · refine SeqStep.act_initOnce (s := { s with seq := rest }) ha ?_
    rintro rfl
    exact hs.not_ready_of_tpInit hq

theorem State.Inv.resume_initOnce {u t : State} (hu : u.Inv) (h : u.resume = .next t) :
    ∃ es, t.trace = u.trace ++ es ∧ InitOnce u.tpReady t.tpReady es := by
  refine (State.resume_induct (P := fun v => v.Inv ∧ ∃ es, v.trace = u.trace ++ es ∧ InitOnce u.tpReady v.tpReady es)
    ?_ ⟨hu, [], (List.append_nil _).symm, .none _⟩ h).2
  rintro v w - ⟨hv, es, htrace, honce⟩ hadv
  obtain ⟨fs, htrace', honce'⟩ := hv.advance_initOnce hadv
  exact ⟨hv.of_advance hadv, es ++ fs, by rw [htrace', htrace, List.append_assoc], honce.append honce'⟩

theorem State.Starts.trace_eq {s u : State} (h : s.Starts u) : u.trace = s.trace := by
  cases h <;> rfl

theorem State.Starts.tpReady_eq {s u : State} (h : s.Starts u) : u.tpReady = s.tpReady := by
  cases h <;> rfl

/-- Settles O58: by induction over the small steps, `init_transfer` being to do only while the transport is not set up. -/
theorem initTransferOnce : Obligations.InitTransferOnce := by
  intro s t hs hr h
  obtain ⟨u, hstart, hstep⟩ := hs.step_eq_resume hr
  have honce := (hstart.inv hs).resume_initOnce (hstep ▸ h)
  rwa [hstart.trace_eq, hstart.tpReady_eq] at honce

/-! ### Which registers of the chips a step list writes, whether it completes or waits (42 R114 to R118) -/

/-- N and the form of the chips' registers are kept, and in the N chips every register whose address is not in `A`. -/
structure State.RegFrame (A : Byte → Prop) (s t : State) : Prop where
  n_eq : t.n = s.n
  chipsInv : t.ChipsInv
  chipReg_eq : ∀ (j : Nat) (a : Byte), j < s.n.toNat → ¬ A a → t.chipReg j a = s.chipReg j a

theorem State.RegFrame.trans {A : Byte → Prop} {s t u : State} (h : s.RegFrame A t) (h' : t.RegFrame A u) :
    s.RegFrame A u where
  n_eq := h'.n_eq.trans h.n_eq
  chipsInv := h'.chipsInv
  chipReg_eq j a hj ha := (h'.chipReg_eq j a (h.n_eq ▸ hj) ha).trans (h.chipReg_eq j a hj ha)

theorem State.RegFrame.of_chips {A : Byte → Prop} {s t : State} (hs : s.ChipsInv) (hn : t.n = s.n) (hcfg : t.cfg = s.cfg)
    (hchips : t.chips = s.chips) : s.RegFrame A t where
  n_eq := hn
  chipsInv := by rwa [State.ChipsInv, hchips, hcfg]
  chipReg_eq j a _ _ := by rw [State.chipReg, State.chipReg, hchips]

/-- A step list for `n` devices writes in their chips only registers whose addresses are in `A`. -/
def WritesOnly (A : Byte → Prop) (n : Byte) (q : List SeqStep) : Prop :=
  ∀ s t : State, s.n = n → s.ChipsInv → runSteps q s = .next t → s.RegFrame A t

/-- A step that makes no call leaves the chips. -/
theorem SeqStep.act_chips_of_no_call {op : SeqStep} {s t : State} (h : op.act s = .done t) (hcall : op.call s = none) :
    t.chips = s.chips := by
  rcases SeqStep.act_event_cases h with ⟨-, -, hchips⟩ | ⟨rfl, -⟩ | ⟨e, -, -, -, htrace⟩
  · exact hchips
  · cases hcall
  · rw [SeqStep.act_trace h, hcall] at htrace
    simp at htrace

section
variable {A : Byte → Prop} {n : Byte}

theorem WritesOnly.nil : WritesOnly A n [] := by
  intro s t _ hs h
  cases h
  exact .of_chips hs rfl rfl rfl

theorem WritesOnly.append {p q : List SeqStep} (hp : WritesOnly A n p) (hq : WritesOnly A n q) :
    WritesOnly A n (p ++ q) := by
  intro s t hn hs h
  obtain ⟨u, hfirst, hrest⟩ := runSteps_append_cases h
  have hu := hp s u hn hs hfirst
  refine hu.trans ?_
  rcases hrest with hrest | ⟨_, rfl⟩
  · exact hq u t (hu.n_eq.trans hn) hu.chipsInv hrest
  · exact .of_chips hu.chipsInv rfl rfl rfl

theorem WritesOnly.flatMap {α : Type} {xs : List α} {f : α → List SeqStep} (h : ∀ x ∈ xs, WritesOnly A n (f x)) :
    WritesOnly A n (xs.flatMap f) := by
  induction xs with
  | nil => exact .nil
  | cons x xs ih =>
    rw [List.flatMap_cons]
    exact (h x List.mem_cons_self).append (ih fun y hy => h y (List.mem_cons_of_mem x hy))

/-- A step that makes no call and writes no N writes no register. -/
theorem WritesOnly.noCall {op : SeqStep} (hcall : ∀ s, op.call s = none) (hn : ∀ k, op ≠ .writeN k) :
    WritesOnly A n [op] := by
  intro s t _ hs h
  rcases runSteps_next_cases h with ⟨hnil, -⟩ | ⟨_, _, u, hcons, hact, hrun⟩ | ⟨_, _, -, -, rfl⟩
  · cases hnil
  · cases hcons
    cases hrun
    exact .of_chips hs ((SeqStep.act_n hact).resolve_right (hn _)) (SeqStep.act_frame hact).1
      (SeqStep.act_chips_of_no_call hact (hcall s))
  · exact .of_chips hs rfl rfl rfl

/-- A row sync writes the row's digit register (42 R118). -/
theorem WritesOnly.rowSync {r : Fin 8} (hr : A (digitReg r)) : WritesOnly A n (rowSyncSteps n r) := by
  rintro s t rfl hs h
  have hsync := runSteps_rowSync_frame hs h
  refine ⟨hsync.n_eq, hsync.chipsInv, fun j a hj ha => hsync.chipReg_eq j a hj fun q hq heq => ha ?_⟩
  rwa [heq, List.mem_singleton.1 hq]

end

/-! ### After INIT only digit registers are written (43 R135) -/

/-- A step list that writes digit registers alone. -/
def WritesDigits (n : Byte) (q : List SeqStep) : Prop := WritesOnly (isDigitAddress · = true) n q

theorem rowSyncSteps_writesDigits (n : Byte) (r : Fin 8) : WritesDigits n (rowSyncSteps n r) :=
  .rowSync (digitReg_isDigitAddress r)

theorem raise_writesDigits (n : Byte) (f : FaultFlag) : WritesDigits n [.raise f] := .noCall (fun _ => rfl) nofun

/-- A pixel write and the sync of its row (41 R91, R95). -/
theorem writeAndSync_writesDigits {n : Byte} {op : SeqStep} (hcall : ∀ s, op.call s = none) (hn : ∀ k, op ≠ .writeN k)
    (r : Fin 8) : WritesDigits n (op :: rowSyncSteps n r) :=
  (WritesOnly.noCall hcall hn).append (rowSyncSteps_writesDigits n r)

theorem setPixSteps_writesDigits (n : Byte) (x y : Int) (on : Bool) : WritesDigits n (setPixSteps n x y on) := by
  rw [setPixSteps]
  cases locate n x y with
  | none => exact .nil
  | some p => exact writeAndSync_writesDigits (fun _ => rfl) (by simp) p.row

theorem togglePixSteps_writesDigits (n : Byte) (x y : Int) : WritesDigits n (togglePixSteps n x y) := by
  rw [togglePixSteps]
  cases locate n x y with
  | none => exact .nil
  | some p => exact writeAndSync_writesDigits (fun _ => rfl) (by simp) p.row

theorem putPixSteps_writesDigits (n : Byte) (x y : Int) (on : Bool) : WritesDigits n (putPixSteps n x y on) := by
  rw [putPixSteps]
  cases locate n x y with
  | none => exact .nil
  | some p => exact .noCall (fun _ => rfl) nofun

theorem getPixSteps_writesDigits (n : Byte) (x y : Int) : WritesDigits n (getPixSteps n x y) := by
  rw [getPixSteps]
  cases locate n x y with
  | none => exact .noCall (fun _ => rfl) nofun
  | some p => exact .noCall (fun _ => rfl) nofun

theorem zeroSteps_writesDigits (n : Byte) : WritesDigits n (zeroSteps n) := by
  refine WritesOnly.flatMap fun r _ => ?_
  rw [List.map_eq_flatMap]
  exact WritesOnly.flatMap fun d _ => .noCall (fun _ => rfl) nofun

theorem clearAllSteps_writesDigits (n : Byte) : WritesDigits n (clearAllSteps n) :=
  (zeroSteps_writesDigits n).append (.flatMap fun r _ => rowSyncSteps_writesDigits n r)

theorem blitEachSteps_writesDigits (n : Byte) (ox oy : Int) (sprite : Sprite) :
    WritesDigits n (blitEachSteps n ox oy sprite) :=
  .flatMap fun _ _ => setPixSteps_writesDigits n _ _ _

theorem blitBatchedSteps_writesDigits (n : Byte) (ox oy : Int) (sprite : Sprite) :
    WritesDigits n (blitBatchedSteps n ox oy sprite) :=
  (WritesOnly.flatMap fun _ _ => putPixSteps_writesDigits n _ _ _).append
    (.flatMap fun r _ => rowSyncSteps_writesDigits n r)

/-- In OPER every command writes digit registers alone. -/
theorem stepList_writesDigits {i : Instr} (hi : i.isCommand = true) {s : State} (hm : s.mode = .oper) :
    WritesDigits s.n (stepList i s) := by
  cases i with
  | init count =>
    rw [stepList, initSteps, if_pos (by rw [hm]; decide)]
    exact raise_writesDigits s.n .seq
  | setPixel x y on =>
    rw [stepList, setPixelSteps, operSteps_of_oper hm]
    exact setPixSteps_writesDigits s.n x y on
  | getPixel x y =>
    rw [stepList, getPixelSteps_of_oper hm]
    exact getPixSteps_writesDigits s.n x y
  | togglePixel x y =>
    rw [stepList, togglePixelSteps, operSteps_of_oper hm]
    exact togglePixSteps_writesDigits s.n x y
  | clear =>
    rw [stepList, clearSteps, operSteps_of_oper hm]
    exact clearAllSteps_writesDigits s.n
  | blit ox oy sprite =>
    rw [stepList, blitSteps, operSteps_of_oper hm]
    split
    · exact blitBatchedSteps_writesDigits s.n ox oy sprite
    · exact blitEachSteps_writesDigits s.n ox oy sprite
  | _ v => cases hi

theorem commandSteps_writesDigits (w : CommandWord) {s : State} (hm : s.mode = .oper) :
    WritesDigits s.n (commandSteps (decodeCommand w) s) := by
  cases hd : decodeCommand w with
  | instr i =>
    intro u t hn hu h
    rw [commandSteps, runSteps_orFinish] at h
    exact stepList_writesDigits (decodeCommand_isCommand hd) hm u t hn hu h
  | reservedOpcode op => exact raise_writesDigits s.n .illop
  | unknownPacketAddress a => exact raise_writesDigits s.n .illop

/-- Settles O41: an idle step leaves the chips, and in OPER an accepted word writes digit registers alone. -/
theorem configRegistersKept : Obligations.ConfigRegistersKept := by
  intro s t j a hs hq hm hr h hj ha
  have ⟨_, hchips, _⟩ := hs
  rcases hs.step_cases with ⟨hrst, -⟩ | ⟨hbusy, -⟩ | ⟨w, ws, -, -, hstep, -⟩ | ⟨-, hstep, -⟩
  · rw [hr] at hrst
    cases hrst
  · exact absurd hq hbusy
  · rw [hstep, State.resume] at h
    have hregs := commandSteps_writesDigits w hm { s.acceptWord (decodeCommand w) with seq := [] } t rfl hchips h
    exact hregs.chipReg_eq j a hj (by simp [ha])
  · rw [hstep] at h
    cases h
    rfl

end Sys2Proof.Machine
end

section
/-!
PROOFS. The blitter family, first part: the clipping rectangle (44 R143), the targets of a sprite, and the effect of both forms of
BLIT when every call returns (44 R141, R145).
-/

/- As in the state family above: these proofs too are elaborated one after another, for the memory limit of the check. -/
set_option deprecated.oldSectionVars true

namespace Sys2Proof.Machine

/-! ### The clipping rectangle (44 R143) -/

/-- A source column is in range: it lies between the bounds of the rectangle. -/
def inClipCols (n : Byte) (ox : Int) (c : Fin 8) : Bool :=
  decide (clipColLo ox ≤ (c.val : Int) ∧ (c.val : Int) ≤ clipColHi n ox)

/-- A source row is in range: it lies between the bounds of the rectangle. -/
def inClipRows (oy : Int) (r : Fin 8) : Bool :=
  decide (clipRowLo oy ≤ (r.val : Int) ∧ (r.val : Int) ≤ clipRowHi oy)

theorem inClipCols_iff {n : Byte} {ox : Int} {c : Fin 8} :
    inClipCols n ox c = true ↔ 0 ≤ targetX ox c ∧ targetX ox c < 8 * (n.toNat : Int) := by
  rw [inClipCols, decide_eq_true_iff, clipColLo, clipColHi, max_le_iff, le_min_iff, targetX]
  omega

theorem inClipRows_iff {oy : Int} {r : Fin 8} : inClipRows oy r = true ↔ 0 ≤ targetY oy r ∧ targetY oy r < 8 := by
  rw [inClipRows, decide_eq_true_iff, clipRowLo, clipRowHi, max_le_iff, le_min_iff, targetY]
  omega

/-- Columns and rows are clipped apart. -/
theorem spriteInRange_eq (n : Byte) (ox oy : Int) (r c : Fin 8) :
    spriteInRange n ox oy r c = (inClipRows oy r && inClipCols n ox c) := by
  rw [Bool.eq_iff_iff, spriteInRange, valid_iff, Bool.and_eq_true, inClipRows_iff, inClipCols_iff, ← and_assoc, and_comm]

theorem spriteInRange_iff {n : Byte} {ox oy : Int} {r c : Fin 8} :
    spriteInRange n ox oy r c = true ↔
      clipColLo ox ≤ (c.val : Int) ∧ (c.val : Int) ≤ clipColHi n ox ∧
      clipRowLo oy ≤ (r.val : Int) ∧ (r.val : Int) ≤ clipRowHi oy := by
  rw [spriteInRange_eq, Bool.and_comm, Bool.and_eq_true, inClipCols, inClipRows, decide_eq_true_iff, decide_eq_true_iff,
    and_assoc]

/-- How many numbers below `k` lie between two bounds. -/
theorem countP_range_between (lo hi : Int) (k : Nat) :
    (((List.range k).countP fun i : Nat => decide (lo ≤ (i : Int) ∧ (i : Int) ≤ hi) : Nat) : Int) =
      max 0 (min ((k : Int) - 1) hi - max 0 lo + 1) := by
  induction k with
  | zero => exact (max_eq_left (by omega)).symm
  | succ k ih =>
    rw [List.range_succ, List.countP_append, Nat.cast_add, ih, List.countP_singleton, Nat.cast_succ, add_sub_cancel_right]
    by_cases h : lo ≤ (k : Int) ∧ (k : Int) ≤ hi
    · have ⟨hlo, hhi⟩ := h
      rw [if_pos (decide_eq_true h), min_eq_left hhi, min_eq_left ((sub_one_lt (k : Int)).le.trans hhi)]
      have hlow := max_le (Int.natCast_nonneg k) hlo
      omega
    · rw [if_neg (by simpa using h)]
      rcases not_and_or.1 h with hlo | hhi
      · have hnone (j : Int) (hj : j ≤ k) : max 0 (min j hi - max 0 lo + 1) = 0 := max_eq_left (by omega)
        exact (congrArg (· + 0) (hnone (k - 1) (by omega))).trans (hnone k le_rfl).symm
      · have hall (j : Int) (hj : (k : Int) - 1 ≤ j) : min j hi = hi := min_eq_right (by omega)
        rw [hall _ le_rfl, hall _ (by omega)]
        exact add_zero _

/-- How many of the eight rows or columns lie between two bounds. -/
theorem countP_rows_between (lo hi : Int) :
    ((rows.countP fun i => decide (lo ≤ (i.val : Int) ∧ (i.val : Int) ≤ hi) : Nat) : Int) =
      max 0 (min 7 hi - max 0 lo + 1) := by
  have hvals : rows.map Fin.val = List.range 8 := rfl
  have hcount := countP_range_between lo hi 8
  rw [← hvals, List.countP_map] at hcount
  exact hcount

theorem countP_inClipCols (n : Byte) (ox : Int) : ((rows.countP (inClipCols n ox) : Nat) : Int) = clipCols n ox := by
  refine (countP_rows_between _ _).trans ?_
  rw [clipCols, clipColLo, clipColHi, inf_left_idem, sup_left_idem]

theorem countP_inClipRows (oy : Int) : ((rows.countP (inClipRows oy) : Nat) : Int) = clipRows oy := by
  refine (countP_rows_between _ _).trans ?_
  rw [clipRows, clipRowLo, clipRowHi, inf_left_idem, sup_left_idem]

theorem mem_spriteCells (rc : Fin 8 × Fin 8) : rc ∈ spriteCells :=
  List.mem_flatMap.2 ⟨rc.1, mem_rows _, List.mem_map_of_mem (mem_rows rc.2)⟩

/-- Over pairs, a condition on the one and a condition on the other are counted apart. -/
theorem countP_pairs {α β : Type} (p : α → Bool) (q : β → Bool) (xs : List α) (ys : List β) :
    (xs.flatMap fun x => ys.map fun y => (x, y)).countP (fun xy => p xy.1 && q xy.2) = xs.countP p * ys.countP q := by
  induction xs with
  | nil => simp
  | cons x xs ih =>
    rw [List.flatMap_cons, List.countP_append, ih, List.countP_cons, List.countP_map, Nat.add_mul, Nat.add_comm]
    cases hx : p x <;> simp [Function.comp_def, hx]

/-- The in-range source bits number `rows · cols`. -/
theorem countP_spriteInRange (n : Byte) (ox oy : Int) :
    ((spriteCells.countP fun rc => spriteInRange n ox oy rc.1 rc.2 : Nat) : Int) = clipRows oy * clipCols n ox := by
  simp only [spriteInRange_eq]
  rw [spriteCells, countP_pairs, Nat.cast_mul, countP_inClipRows, countP_inClipCols]

/-- The sprite misses the canvas when its rectangle is empty. -/
theorem forall_not_spriteInRange_iff (n : Byte) (ox oy : Int) :
    (∀ r c, spriteInRange n ox oy r c = false) ↔ clipCols n ox = 0 ∨ clipRows oy = 0 := by
  have hnone : (∀ r c, spriteInRange n ox oy r c = false) ↔
      spriteCells.countP (fun rc => spriteInRange n ox oy rc.1 rc.2) = 0 := by
    rw [List.countP_eq_zero]
    exact ⟨fun h rc _ => by simp [h], fun h r c => by simpa using h (r, c) (mem_spriteCells (r, c))⟩
  rw [hnone, ← Int.natCast_eq_zero, countP_spriteInRange, mul_eq_zero, or_comm]

theorem clipCols_eq_zero_iff {n : Byte} (hn : n ≠ 0#8) (ox : Int) :
    clipCols n ox = 0 ↔ ox ≤ -8 ∨ 8 * (n.toNat : Int) ≤ ox := by
  have hpos : n.toNat ≠ 0 := fun h => hn (BitVec.eq_of_toNat_eq h)
  rw [clipCols, clipColLo, clipColHi, max_eq_left_iff]
  omega

theorem clipRows_eq_zero_iff (oy : Int) : clipRows oy = 0 ↔ oy ≤ -8 ∨ 8 ≤ oy := by
  rw [clipRows, clipRowLo, clipRowHi, max_eq_left_iff]
  omega

/-! ### The targets of a sprite and the rows they lie in (44 R142, R145) -/

/-- A bit of FB that a source bit of the sprite is written to. -/
def SpriteTarget (n : Byte) (ox oy : Int) (p : PixelAddr) : Prop :=
  ∃ r c : Fin 8, locate n (targetX ox c) (targetY oy r) = some p

/-- A canvas row is affected when an in-range source bit has its target there (44 R145). -/
theorem touched_iff_inRange {n : Byte} {ox oy : Int} {y : Fin 8} :
    touched n ox oy y = true ↔ ∃ r c, spriteInRange n ox oy r c = true ∧ targetY oy r = (y.val : Int) := by
  simp [touched, spriteInRange, mem_spriteCells]

/-- The affected rows are those of the targets (44 R145). -/
theorem touched_iff {n : Byte} {ox oy : Int} {y : Fin 8} :
    touched n ox oy y = true ↔ ∃ p, SpriteTarget n ox oy p ∧ p.row = y := by
  rw [touched_iff_inRange]
  constructor
  · rintro ⟨r, c, hv, hy⟩
    have hl := locate_of_valid hv
    obtain ⟨-, -, hrow, -⟩ := locate_eq_some hl
    exact ⟨_, ⟨r, c, hl⟩, Fin.ext (by omega)⟩
  · rintro ⟨p, ⟨r, c, hl⟩, rfl⟩
    obtain ⟨hv, -, hrow, -⟩ := locate_eq_some hl
    exact ⟨r, c, hv, hrow.symm⟩

/-! ### BLIT's step list -/

/-- The step list of BLIT in OPER, in the form the synthesis parameter selects (44 R141, R145). -/
def blitBody (batched : Bool) (n : Byte) (ox oy : Int) (sprite : Sprite) : List SeqStep :=
  if batched then blitBatchedSteps n ox oy sprite else blitEachSteps n ox oy sprite

theorem stepList_blit (s : State) (ox oy : Int) (sprite : Sprite) :
    stepList (.blit ox oy sprite) s = operSteps s (blitBody s.cfg.blitBatched s.n ox oy sprite) := rfl

theorem exec_blit_of_oper {s : State} (hq : s.seq = []) (hm : s.mode = .oper) (ox oy : Int) (sprite : Sprite) :
    exec (.blit ox oy sprite) s = runSteps (blitBody s.cfg.blitBatched s.n ox oy sprite) s := by
  rw [exec_idle _ s hq, stepList_blit, operSteps_of_oper hm]

theorem blitBody_inBody (batched : Bool) (n : Byte) (ox oy : Int) (sprite : Sprite) :
    (blitBody batched n ox oy sprite).all (SeqStep.inBody n) = true := by
  cases batched with
  | false => exact blitEachSteps_inBody n ox oy sprite
  | true => exact blitBatchedSteps_inBody n ox oy sprite

/-- A sprite that misses the canvas leaves nothing to do (44 R143). -/
theorem blitBody_of_miss {n : Byte} {ox oy : Int} (h : ∀ r c, spriteInRange n ox oy r c = false) (batched : Bool)
    (sprite : Sprite) : blitBody batched n ox oy sprite = [] := by
  have hl : ∀ r c, locate n (targetX ox c) (targetY oy r) = none := fun r c => locate_of_invalid (h r c)
  cases batched with
  | false =>
    refine List.flatMap_eq_nil_iff.2 fun rc _ => ?_
    rw [setPixSteps, hl]
  | true =>
    refine List.append_eq_nil_iff.2 ⟨List.flatMap_eq_nil_iff.2 fun rc _ => by rw [putPixSteps, hl], ?_⟩
    refine List.flatMap_eq_nil_iff.2 fun y hy => ?_
    obtain ⟨p, ⟨r, c, hp⟩, -⟩ := touched_iff.1 (List.mem_filter.1 hy).2
    rw [hl] at hp
    cases hp

/-- Settles O29: columns and rows are clipped apart, so the in-range bits number `rows · cols`, and without one there is no step
to do. -/
theorem blitClipping : Obligations.BlitClipping := by
  refine ⟨fun n ox oy r c => spriteInRange_iff, countP_spriteInRange, fun n ox oy hn => ?_, fun s ox oy sprite hq hm h => ?_⟩
  · rw [forall_not_spriteInRange_iff, clipCols_eq_zero_iff hn, clipRows_eq_zero_iff, or_assoc]
    exact ⟨Iff.rfl, Iff.rfl⟩
  · rw [exec_blit_of_oper hq hm, blitBody_of_miss h, runSteps_nil]

/-! ### The effect when every call returns (44 R141, R145) -/

/-- N is `n` and every call returns: what each part of a blit keeps, and under which each completes. -/
structure State.Returns (n : Byte) (s : State) : Prop where
  n_eq : s.n = n
  ready : s.tpReady = true
  calls : s.tpCredit = none

theorem State.Returns.setPix {n : Byte} {s : State} (h : s.Returns n) (x y : Int) (on : Bool) :
    (s.setPix x y on).Returns n := by
  rw [State.setPix]
  split <;> exact ⟨h.n_eq, h.ready, h.calls⟩

theorem State.Returns.putPix {n : Byte} {s : State} (h : s.Returns n) (x y : Int) (on : Bool) :
    (s.putPix x y on).Returns n := by
  rw [State.putPix]
  split <;> exact ⟨h.n_eq, h.ready, h.calls⟩

/-- A step list with its effect, in every state of which N is `n` and every call returns. -/
def Effects (n : Byte) (q : List SeqStep) (f : State → State) : Prop :=
  ∀ s : State, s.Returns n → runSteps q s = .next (f s) ∧ (f s).Returns n

/-- Lists one after another have their effects one after another. -/
theorem Effects.flatMap {α : Type} {n : Byte} {q : α → List SeqStep} {f : State → α → State}
    (h : ∀ x, Effects n (q x) (f · x)) (xs : List α) : Effects n (xs.flatMap q) (xs.foldl f) := by
  intro s hs
  induction xs generalizing s with
  | nil => exact ⟨rfl, hs⟩
  | cons x xs ih =>
    obtain ⟨hrun, hx⟩ := h x s hs
    rw [List.flatMap_cons, runSteps_append hs.calls hrun]
    exact ih _ hx

theorem Effects.append {n : Byte} {p q : List SeqStep} {f g : State → State} (hp : Effects n p f) (hq : Effects n q g) :
    Effects n (p ++ q) fun s => g (f s) := by
  intro s hs
  obtain ⟨hrun, hf⟩ := hp s hs
  rw [runSteps_append hs.calls hrun]
  exact hq _ hf

theorem Effects.setPix (n : Byte) (x y : Int) (on : Bool) : Effects n (setPixSteps n x y on) (·.setPix x y on) := by
  intro s hs
  obtain rfl := hs.n_eq
  exact ⟨runSteps_setPix x y on hs.ready hs.calls, hs.setPix x y on⟩

theorem Effects.rowSync (n : Byte) (r : Fin 8) : Effects n (rowSyncSteps n r) fun s => s.emits (s.rowSyncEvents r) := by
  intro s hs
  obtain rfl := hs.n_eq
  exact ⟨runSteps_rowSync r hs.ready hs.calls, rfl, hs.ready, hs.calls⟩

theorem State.putPix_of_locate_none {s : State} {x y : Int} (h : locate s.n x y = none) (on : Bool) : s.putPix x y on = s := by
  rw [State.putPix, h]

theorem State.putPix_of_locate {s : State} {x y : Int} {p : PixelAddr} (h : locate s.n x y = some p) (on : Bool) :
    s.putPix x y on = s.fbStore p.row p.device (putBit p.bit on (s.fbByte p.row p.device)) := by
  rw [State.putPix, h]

theorem State.act_fbPut_of_locate {s : State} {x y : Int} {p : PixelAddr} (h : locate s.n x y = some p) (on : Bool) :
    (SeqStep.fbPut p.row p.device p.bit on).act s = .done (s.putPix x y on) := by
  rw [State.putPix_of_locate h]
  exact State.fbModify_of_lt _ (locate_device_lt h).1

/-- The write of one source bit (44 R145). -/
theorem Effects.putPix (n : Byte) (x y : Int) (on : Bool) : Effects n (putPixSteps n x y on) (·.putPix x y on) := by
  intro s hs
  obtain rfl := hs.n_eq
  refine ⟨?_, hs.putPix x y on⟩
  rw [putPixSteps]
  cases hl : locate s.n x y with
  | none => exact congrArg _ (State.putPix_of_locate_none hl on).symm
  | some p => exact runSteps_cons_done (State.act_fbPut_of_locate hl on)

/-- SetPix of one source bit at its target (44 R141, R142). -/
def State.setCell (ox oy : Int) (sprite : Sprite) (s : State) (rc : Fin 8 × Fin 8) : State :=
  s.setPix (targetX ox rc.2) (targetY oy rc.1) (spriteBit sprite rc.1 rc.2)

/-- The write of one source bit at its target (44 R142, R145). -/
def State.putCell (ox oy : Int) (sprite : Sprite) (s : State) (rc : Fin 8 × Fin 8) : State :=
  s.putPix (targetX ox rc.2) (targetY oy rc.1) (spriteBit sprite rc.1 rc.2)

/-- The unbatched blit: SetPix of every source bit (44 R141). -/
def State.blitEach (s : State) (ox oy : Int) (sprite : Sprite) : State := spriteCells.foldl (State.setCell ox oy sprite) s

/-- The writes of the batched blit, every source bit (44 R145). -/
def State.putSprite (s : State) (ox oy : Int) (sprite : Sprite) : State := spriteCells.foldl (State.putCell ox oy sprite) s

/-- RowSync of one row after another (42 R112). -/
def State.syncRows (s : State) (rs : List (Fin 8)) : State := rs.foldl (fun u y => u.emits (u.rowSyncEvents y)) s

/-- The batched blit: the writes, and then the syncs of the affected rows (44 R145). -/
def State.blitBatched (s : State) (ox oy : Int) (sprite : Sprite) : State :=
  (s.putSprite ox oy sprite).syncRows (rows.filter (touched s.n ox oy))

theorem Effects.blitEach (n : Byte) (ox oy : Int) (sprite : Sprite) :
    Effects n (blitEachSteps n ox oy sprite) (·.blitEach ox oy sprite) :=
  Effects.flatMap (fun _ => .setPix n _ _ _) spriteCells

theorem Effects.blitBatched (n : Byte) (ox oy : Int) (sprite : Sprite) :
    Effects n (blitBatchedSteps n ox oy sprite) fun s =>
      (s.putSprite ox oy sprite).syncRows (rows.filter (touched n ox oy)) :=
  (Effects.flatMap (fun _ => .putPix n _ _ _) spriteCells).append (Effects.flatMap (Effects.rowSync n) _)

/-- The state a completed BLIT leaves, in the form the synthesis parameter selects. -/
def State.blit (s : State) (ox oy : Int) (sprite : Sprite) : State :=
  if s.cfg.blitBatched then s.blitBatched ox oy sprite else s.blitEach ox oy sprite

theorem runSteps_blitBody {s : State} (hr : s.tpReady = true) (hc : s.tpCredit = none) (ox oy : Int) (sprite : Sprite) :
    runSteps (blitBody s.cfg.blitBatched s.n ox oy sprite) s = .next (s.blit ox oy sprite) := by
  rw [blitBody, State.blit]
  split
  · exact (Effects.blitBatched s.n ox oy sprite s ⟨rfl, hr, hc⟩).1
  · exact (Effects.blitEach s.n ox oy sprite s ⟨rfl, hr, hc⟩).1

theorem exec_blit_of_ready {s : State} (hs : s.Ready) (ox oy : Int) (sprite : Sprite) :
    exec (.blit ox oy sprite) s = .next (s.blit ox oy sprite) := by
  obtain ⟨hq, hm, hr, hc⟩ := hs
  rw [exec_blit_of_oper hq hm, runSteps_blitBody hr hc]

/-- Settles O17: the step lists of the 64 source bits run one after another, each as its SetPix. -/
theorem blitEachResult : Obligations.BlitEachResult := by
  intro s ox oy sprite hs hb
  rw [exec_blit_of_ready hs, State.blit, hb]
  rfl

/-- Settles O18: the 64 writes run one after another, and then the syncs of the affected rows. -/
theorem blitBatchedResult : Obligations.BlitBatchedResult := by
  intro s ox oy sprite hs hb
  rw [exec_blit_of_ready hs, State.blit, hb]
  rfl

end Sys2Proof.Machine
end

section
/-!
PROOFS. The blitter family, second part: what BLIT leaves in FB (44 R140, R144) and in the chips (44 R146), its calls (70 R192), and
its frame (44 R141, R145).
-/

/- As in the state family above: these proofs too are elaborated one after another, for the memory limit of the check. -/
set_option deprecated.oldSectionVars true

namespace Sys2Proof.Machine

/-! ### The canvas after a blit (44 R140, R144) -/

/-- The same device count and the same FB: what `get_pixel` reads. -/
structure State.SameCanvas (s t : State) : Prop where
  n_eq : t.n = s.n
  fb_eq : t.fb = s.fb

theorem State.SameCanvas.refl (s : State) : s.SameCanvas s := ⟨rfl, rfl⟩

theorem State.SameCanvas.bitAt_eq {s t : State} (h : s.SameCanvas t) (p : PixelAddr) : t.bitAt p = s.bitAt p := by
  rw [State.bitAt, State.bitAt, State.fbByte, State.fbByte, h.fb_eq]

theorem State.SameCanvas.pixelOn_eq {s t : State} (h : s.SameCanvas t) (x y : Int) : t.pixelOn x y = s.pixelOn x y := by
  rw [State.pixelOn, State.pixelOn, h.n_eq]
  cases locate s.n x y with
  | none => rfl
  | some p => exact h.bitAt_eq p

theorem State.SameCanvas.putPix {s t : State} (h : s.SameCanvas t) (x y : Int) (on : Bool) :
    (s.putPix x y on).SameCanvas (t.putPix x y on) := by
  rw [State.putPix, State.putPix, h.n_eq]
  cases locate s.n x y with
  | none => exact h
  | some p => exact ⟨h.n_eq, by rw [State.fbStore_fb, State.fbStore_fb, State.fbByte, State.fbByte, h.fb_eq]⟩

/-- SetPix leaves on the canvas what its write leaves (41 R91). -/
theorem State.sameCanvas_setPix (s : State) (x y : Int) (on : Bool) : (s.putPix x y on).SameCanvas (s.setPix x y on) := by
  rw [State.putPix, State.setPix]
  cases locate s.n x y with
  | none => exact .refl s
  | some p => exact ⟨rfl, rfl⟩

theorem State.SameCanvas.trans {s t u : State} (h : s.SameCanvas t) (h' : t.SameCanvas u) : s.SameCanvas u :=
  ⟨h'.n_eq.trans h.n_eq, h'.fb_eq.trans h.fb_eq⟩

theorem State.sameCanvas_syncRows (s : State) (rs : List (Fin 8)) : s.SameCanvas (s.syncRows rs) :=
  List.foldlRecOn rs _ (.refl s) fun _ h _ _ => h.trans ⟨rfl, rfl⟩

/-- Both forms leave on the canvas what the writes of the sprite's bits leave (44 R146). -/
theorem State.SameCanvas.blit {s t : State} (h : s.SameCanvas t) (ox oy : Int) (sprite : Sprite) :
    (s.putSprite ox oy sprite).SameCanvas (t.blit ox oy sprite) := by
  rw [State.blit]
  split
  · have hput : (s.putSprite ox oy sprite).SameCanvas (t.putSprite ox oy sprite) :=
      List.foldl_rel h fun _ _ _ _ hu => hu.putPix _ _ _
    exact hput.trans (State.sameCanvas_syncRows _ _)
  · exact List.foldl_rel h fun _ _ _ _ hu => (hu.putPix _ _ _).trans (State.sameCanvas_setPix _ _ _ _)

@[simp] theorem State.putPix_n (s : State) (x y : Int) (on : Bool) : (s.putPix x y on).n = s.n :=
  (s.sameCanvas_setPix x y on).n_eq.symm.trans (s.setPix_n x y on)

theorem State.memWf_putPix {s : State} (hw : memWf s.fb = true) (x y : Int) (on : Bool) :
    memWf (s.putPix x y on).fb = true :=
  (s.sameCanvas_setPix x y on).fb_eq ▸ State.memWf_setPix hw x y on

/-- The canvas after the write of one bit that is in range. -/
theorem State.pixelOn_putPix_same {s : State} (hw : memWf s.fb = true) {x y : Int} (h : valid s.n x y = true) (on : Bool) :
    (s.putPix x y on).pixelOn x y = on := by
  rw [← (s.sameCanvas_setPix x y on).pixelOn_eq, State.pixelOn_setPix hw h h, if_pos rfl]

/-- Every other pixel is as it was. -/
theorem State.pixelOn_putPix_of_ne {s : State} (hw : memWf s.fb = true) {x y x' y' : Int} (hne : (x', y') ≠ (x, y))
    (on : Bool) : (s.putPix x y on).pixelOn x' y' = s.pixelOn x' y' := by
  rw [← (s.sameCanvas_setPix x y on).pixelOn_eq]
  cases h : valid s.n x y with
  | false => rw [State.setPix_of_invalid h]
  | true =>
    cases h' : valid s.n x' y' with
    | false => rw [State.pixelOn, State.pixelOn, State.setPix_n, locate_of_invalid h']
    | true => rw [State.pixelOn_setPix hw h h', if_neg hne]

/-- A source bit is the value of its target once it is written, and stays it whatever other source bits are written after it,
their targets being others. -/
theorem State.pixelOn_putCells {s : State} (hw : memWf s.fb = true) {ox oy : Int} {sprite : Sprite} {r c : Fin 8}
    (hv : spriteInRange s.n ox oy r c = true) {l : List (Fin 8 × Fin 8)}
    (h : (r, c) ∈ l ∨ s.pixelOn (targetX ox c) (targetY oy r) = spriteBit sprite r c) :
    (l.foldl (State.putCell ox oy sprite) s).pixelOn (targetX ox c) (targetY oy r) = spriteBit sprite r c := by
  induction l generalizing s with
  | nil => exact h.resolve_left List.not_mem_nil
  | cons rc l ih =>
    obtain ⟨r', c'⟩ := rc
    refine ih (s := s.putCell ox oy sprite (r', c')) (State.memWf_putPix hw _ _ _) (by rwa [State.putCell, State.putPix_n]) ?_
    by_cases hsame : (r', c') = (r, c)
    · obtain ⟨rfl, rfl⟩ := Prod.mk.inj hsame
      exact .inr (State.pixelOn_putPix_same hw hv _)
    · refine h.imp (fun hmem => (List.mem_cons.1 hmem).resolve_left (Ne.symm hsame)) fun hbit => ?_
      have hne : (targetX ox c, targetY oy r) ≠ (targetX ox c', targetY oy r') := by
        simp only [ne_eq, Prod.mk.injEq, targetX, targetY, Fin.ext_iff] at hsame ⊢
        omega
      rw [State.putCell, State.pixelOn_putPix_of_ne hw hne, hbit]

/-- A pixel that is no target is as it was. -/
theorem State.pixelOn_putSprite_of_ne {s : State} (hw : memWf s.fb = true) {ox oy x y : Int}
    (h : ∀ r c, (targetX ox c, targetY oy r) ≠ (x, y)) (sprite : Sprite) :
    (s.putSprite ox oy sprite).pixelOn x y = s.pixelOn x y := by
  have hall : memWf (s.putSprite ox oy sprite).fb = true ∧ (s.putSprite ox oy sprite).pixelOn x y = s.pixelOn x y :=
    List.foldlRecOn (motive := fun u : State => memWf u.fb = true ∧ u.pixelOn x y = s.pixelOn x y) spriteCells _ ⟨hw, rfl⟩
      fun u ⟨hu, hpixel⟩ rc _ =>
        ⟨State.memWf_putPix hu _ _ _, (State.pixelOn_putPix_of_ne hu (h rc.1 rc.2).symm _).trans hpixel⟩
  exact hall.2

/-- Settles O30: both forms leave the canvas of the 64 writes, whose targets are all different. -/
theorem blitFinalPixels : Obligations.BlitFinalPixels := by
  intro s ox oy sprite hs hw
  have hcanvas := (State.SameCanvas.refl s).blit ox oy sprite
  refine ⟨_, exec_blit_of_ready hs ox oy sprite, fun r c hv => ?_, fun x y hne => ?_⟩
  · exact (hcanvas.pixelOn_eq _ _).trans (State.pixelOn_putCells hw hv (.inl (mem_spriteCells (r, c))))
  · exact (hcanvas.pixelOn_eq x y).trans (State.pixelOn_putSprite_of_ne hw hne sprite)

/-! ### The digit registers after a blit (44 R146) -/

section
variable {n : Byte} {P : Fin 8 → Prop}

/-- A write and the sync of its row bring the row into agreement and leave the others as they were. -/
theorem Syncs.writeThenSync {op : SeqStep} {r : Fin 8} {d : Nat} {f : Byte → Byte}
    (hop : ∀ s, op.act s = s.fbModify r d f) (hd : d < n.toNat) :
    Syncs n P (op :: rowSyncSteps n r) fun q => q = r ∨ P q := by
  have hwrite : Syncs n (fun q => P q ∧ q ≠ r) [op] (fun q => P q ∧ q ≠ r) := Syncs.write hop hd fun h => h.2 rfl
  refine (hwrite.append (Syncs.rowSync r)).mono (fun _ h => h.1) fun q hq => ?_
  exact (eq_or_ne q r).imp_right fun hne => ⟨hq.resolve_left hne, hne⟩

/-- Lists that each bring some rows into agreement bring all of those into agreement one after another. -/
theorem Syncs.flatMap_rows {α : Type} {f : α → List SeqStep} {R : α → Fin 8 → Prop}
    (h : ∀ (x : α) (P : Fin 8 → Prop), Syncs n P (f x) fun q => R x q ∨ P q) (xs : List α) :
    Syncs n P (xs.flatMap f) fun q => (∃ x ∈ xs, R x q) ∨ P q := by
  induction xs generalizing P with
  | nil => exact Syncs.nil.mono (fun _ => id) fun q hq => hq.resolve_left (by simp)
  | cons x xs ih =>
    rw [List.flatMap_cons]
    refine ((h x P).append ih).mono (fun _ => id) fun q hq => ?_
    rw [List.exists_mem_cons_iff, or_assoc] at hq
    exact or_left_comm.1 hq

theorem setPixSteps_syncs_row (x y : Int) (on : Bool) :
    Syncs n P (setPixSteps n x y on) fun q => (∃ p, locate n x y = some p ∧ p.row = q) ∨ P q := by
  rw [setPixSteps]
  cases hl : locate n x y with
  | none => exact Syncs.nil.mono (fun _ => id) fun q hq => hq.resolve_left (by simp)
  | some p =>
    refine (Syncs.writeThenSync (fun _ => rfl) (locate_device_lt hl).1).mono (fun _ => id) fun q hq => ?_
    exact hq.imp_left fun ⟨_, hp, hrow⟩ => by rw [← hrow, Option.some.inj hp]

theorem blitEachSteps_syncs_touched (ox oy : Int) (sprite : Sprite) :
    Syncs n P (blitEachSteps n ox oy sprite) fun q => touched n ox oy q = true ∨ P q := by
  refine (Syncs.flatMap_rows (fun rc P => setPixSteps_syncs_row _ _ _) spriteCells).mono (fun _ => id) fun q hq => ?_
  refine hq.imp_left fun ht => ?_
  obtain ⟨p, ⟨r, c, hl⟩, hrow⟩ := touched_iff.1 ht
  exact ⟨(r, c), mem_spriteCells _, p, hl, hrow⟩

/-- The writes of a blit leave the rows that are not affected as they were. -/
theorem putSteps_syncs (ox oy : Int) (sprite : Sprite) :
    Syncs n (fun q => P q ∧ touched n ox oy q = false) (spriteCells.flatMap fun rc =>
      putPixSteps n (targetX ox rc.2) (targetY oy rc.1) (spriteBit sprite rc.1 rc.2))
      (fun q => P q ∧ touched n ox oy q = false) := by
  refine Syncs.flatMap fun rc hrc => ?_
  rw [putPixSteps]
  cases hl : locate n (targetX ox rc.2) (targetY oy rc.1) with
  | none => exact .nil
  | some p => exact Syncs.write (fun _ => rfl) (locate_device_lt hl).1 (by simp [touched_of_locate hrc hl])

theorem blitBatchedSteps_syncs_touched (ox oy : Int) (sprite : Sprite) :
    Syncs n P (blitBatchedSteps n ox oy sprite) fun q => touched n ox oy q = true ∨ P q := by
  refine ((putSteps_syncs ox oy sprite).append (Syncs.rowSyncs _)).mono (fun _ h => h.1) fun q hq => ?_
  cases ht : touched n ox oy q with
  | true => exact .inl (List.mem_filter.2 ⟨mem_rows q, ht⟩)
  | false => exact .inr ⟨hq.resolve_left (by simp [ht]), rfl⟩

/-- Either form brings the affected rows into agreement and leaves the others as they were. -/
theorem blitBody_syncs (batched : Bool) (ox oy : Int) (sprite : Sprite) :
    Syncs n P (blitBody batched n ox oy sprite) fun q => touched n ox oy q = true ∨ P q := by
  cases batched with
  | false => exact blitEachSteps_syncs_touched ox oy sprite
  | true => exact blitBatchedSteps_syncs_touched ox oy sprite

end

/-- The address of the digit register of an affected row. -/
def TouchedReg (n : Byte) (ox oy : Int) (a : Byte) : Prop := ∃ q, touched n ox oy q = true ∧ digitReg q = a

theorem setPixSteps_writesOnly {A : Byte → Prop} {n : Byte} {x y : Int} (h : ∀ p, locate n x y = some p → A (digitReg p.row))
    (on : Bool) : WritesOnly A n (setPixSteps n x y on) := by
  rw [setPixSteps]
  cases hl : locate n x y with
  | none => exact .nil
  | some p => exact (WritesOnly.noCall (fun _ => rfl) (by simp)).append (.rowSync (h p hl))

theorem putPixSteps_writesOnly (A : Byte → Prop) (n : Byte) (x y : Int) (on : Bool) :
    WritesOnly A n (putPixSteps n x y on) := by
  rw [putPixSteps]
  cases locate n x y with
  | none => exact .nil
  | some p => exact .noCall (fun _ => rfl) nofun

/-- Either form writes only the digit registers of affected rows (44 R141, R145). -/
theorem blitBody_writesOnly (batched : Bool) (n : Byte) (ox oy : Int) (sprite : Sprite) :
    WritesOnly (TouchedReg n ox oy) n (blitBody batched n ox oy sprite) := by
  cases batched with
  | false =>
    exact .flatMap fun rc hrc => setPixSteps_writesOnly (fun p hp => ⟨p.row, touched_of_locate hrc hp, rfl⟩) _
  | true =>
    refine (WritesOnly.flatMap fun rc _ => putPixSteps_writesOnly _ n _ _ _).append (.flatMap fun q hq => .rowSync ?_)
    exact ⟨q, (List.mem_filter.1 hq).2, rfl⟩

theorem State.SameControl.n_eq {s t : State} (h : s.SameControl t) : t.n = s.n := by
  obtain ⟨-, hn, -⟩ := h
  exact hn

theorem State.SameControl.chips_length {s t : State} (h : s.SameControl t) : t.chips.length = s.chips.length := by
  obtain ⟨-, -, -, -, -, -, -, -, -, -, -, -, hlen⟩ := h
  exact hlen

section
variable {s : State} (hr : s.tpReady = true) (hc : s.tpCredit = none) (hw : memWf s.fb = true) (hchips : s.ChipsInv)
include hr hc hw hchips

/-- After a blit the affected rows agree with FB, and the others if they did before. -/
theorem State.chipReg_blit_eq_fbByte (hreach : s.ChainReaches) {P : Fin 8 → Prop} (hP : s.CoherentOn P) (ox oy : Int)
    (sprite : Sprite) {r : Fin 8} (h : touched s.n ox oy r = true ∨ P r) {d : Nat} (hd : d < s.n.toNat) :
    (s.blit ox oy sprite).chipReg d (digitReg r) = (s.blit ox oy sprite).fbByte r d := by
  have hrun := runSteps_blitBody hr hc ox oy sprite
  obtain ⟨t, hrun', ht, hrows⟩ := blitBody_syncs s.cfg.blitBatched ox oy sprite s ⟨rfl, hw, hchips, hr, hc⟩ hP
  obtain rfl : s.blit ox oy sprite = t := Host.Outcome.next.inj (hrun.symm.trans hrun')
  have hlen := (runSteps_inBody_sameControl (blitBody_inBody _ _ ox oy sprite) hrun).1.chips_length
  exact hrows r d h (ht.n_eq.symm ▸ hd) (hlen ▸ lt_of_lt_of_le hd hreach)

/-- The digit registers after a blit: the byte of FB in the affected rows, what they held in the others. -/
theorem State.chipReg_blit (hreach : s.ChainReaches) (ox oy : Int) (sprite : Sprite) (r : Fin 8) {d : Nat}
    (hd : d < s.n.toNat) : (s.blit ox oy sprite).chipReg d (digitReg r) =
      if touched s.n ox oy r then (s.blit ox oy sprite).fbByte r d else s.chipReg d (digitReg r) := by
  split
  · have hnone : s.CoherentOn fun _ => False := fun _ _ h => h.elim
    exact State.chipReg_blit_eq_fbByte hr hc hw hchips hreach hnone ox oy sprite (.inl ‹_›) hd
  · refine (blitBody_writesOnly _ s.n ox oy sprite s _ rfl hchips (runSteps_blitBody hr hc ox oy sprite)).chipReg_eq d _ hd ?_
    rintro ⟨q, hq, heq⟩
    rw [digitReg_inj.1 heq] at hq
    contradiction

theorem State.coherent_blit (hreach : s.ChainReaches) (hcoh : s.Coherent) (ox oy : Int) (sprite : Sprite) :
    (s.blit ox oy sprite).Coherent := by
  intro r d hd
  have hn : (s.blit ox oy sprite).n = s.n :=
    (runSteps_inBody_sameControl (blitBody_inBody _ _ ox oy sprite) (runSteps_blitBody hr hc ox oy sprite)).1.n_eq
  exact State.chipReg_blit_eq_fbByte hr hc hw hchips hreach (hcoh.coherentOn allRows) ox oy sprite (.inr trivial) (hn ▸ hd)

end

/-- Settles O31: the two forms leave the same FB, and in each the digit registers are FB's bytes in the affected rows and untouched
in the others. -/
theorem blitFormsAgree : Obligations.BlitFormsAgree := by
  intro s ox oy sprite hs hw hchips hreach
  have ⟨_, _, hr, hc⟩ := hs
  have hcanvas (b : Bool) := State.SameCanvas.blit (s := s) (t := { s with cfg := { s.cfg with blitBatched := b } }) ⟨rfl, rfl⟩
    ox oy sprite
  have hfb := (hcanvas false).fb_eq.trans (hcanvas true).fb_eq.symm
  have hreg (b : Bool) := State.chipReg_blit (s := { s with cfg := { s.cfg with blitBatched := b } }) hr hc hw hchips hreach ox oy
    sprite
  have hcoh (b : Bool) := State.coherent_blit (s := { s with cfg := { s.cfg with blitBatched := b } }) hr hc hw hchips hreach
  refine ⟨_, _, exec_blit_of_ready (by exact hs) ox oy sprite, exec_blit_of_ready (by exact hs) ox oy sprite, hfb,
    fun r d hd => ?_, fun h => ⟨hcoh false h ox oy sprite, hcoh true h ox oy sprite⟩⟩
  rw [hreg false r hd, hreg true r hd, State.fbByte, State.fbByte, hfb]
  rfl


/-! ### The calls of a blit (44 R144, R145, 70 R192) -/

/-- From `s` to `t` the trace grows by `k` sets, each of `2·N` sends and one latch, and N stays. -/
def State.AddsSets (k : Nat) (s t : State) : Prop :=
  t.n = s.n ∧ ∃ es, t.trace = s.trace ++ es ∧ latchCount es = k ∧ sendCount es = 2 * s.n.toNat * k ∧ initCount es = 0

theorem State.AddsSets.none (s : State) : s.AddsSets 0 s := ⟨rfl, [], (List.append_nil _).symm, rfl, rfl, rfl⟩

theorem State.AddsSets.trans {j k : Nat} {s t u : State} (h : s.AddsSets j t) (h' : t.AddsSets k u) :
    s.AddsSets (j + k) u := by
  obtain ⟨hn, es, htrace, hlatch, hsend, hinit⟩ := h
  obtain ⟨hn', fs, htrace', hlatch', hsend', hinit'⟩ := h'
  refine ⟨hn'.trans hn, es ++ fs, by rw [htrace', htrace, List.append_assoc], ?_, ?_, ?_⟩
  · rw [latchCount, List.countP_append, ← latchCount, ← latchCount, hlatch, hlatch']
  · rw [sendCount, List.countP_append, ← sendCount, ← sendCount, hsend, hsend', hn, Nat.mul_add]
  · rw [initCount_append, hinit, hinit']

/-- Effects one after another, each of one set where `p` holds and of none elsewhere. -/
theorem State.AddsSets.foldl {α : Type} {p : α → Bool} {g : State → α → State} (s : State)
    (h : ∀ (u : State) (x : α), u.n = s.n → u.AddsSets (if p x then 1 else 0) (g u x)) (xs : List α) :
    s.AddsSets (xs.countP p) (xs.foldl g s) := by
  induction xs using List.reverseRecOn with
  | nil => exact .none s
  | append_singleton xs x ih =>
    have ⟨hn, _⟩ := ih
    rw [List.foldl_concat, List.countP_append, List.countP_singleton]
    exact ih.trans (h _ x hn)

/-- A row sync is one set (42 R112). -/
theorem State.addsSets_rowSync (s : State) (r : Fin 8) : s.AddsSets 1 (s.emits (s.rowSyncEvents r)) := by
  refine ⟨rfl, s.rowSyncEvents r, rfl, ?_, ?_, ?_⟩ <;>
    simp [State.rowSyncEvents, packetEvents, devicesDown, latchCount, sendCount, initCount, List.countP_flatMap,
      Function.comp_def, mul_comm]

theorem State.addsSets_setPix (s : State) (x y : Int) (on : Bool) :
    s.AddsSets (if valid s.n x y then 1 else 0) (s.setPix x y on) := by
  cases hv : valid s.n x y with
  | false =>
    rw [State.setPix_of_invalid hv]
    exact .none s
  | true =>
    rw [State.setPix_of_locate (locate_of_valid hv)]
    exact State.addsSets_rowSync (s.fbStore _ _ _) _

theorem State.addsSets_putPix (s : State) (x y : Int) (on : Bool) : s.AddsSets 0 (s.putPix x y on) := by
  rw [State.putPix]
  cases locate s.n x y with
  | none => exact .none s
  | some p => exact State.AddsSets.none (s.fbStore _ _ _)

/-- Unbatched, a set for every in-range source bit; batched, one for every affected row. -/
theorem State.addsSets_blit (s : State) (ox oy : Int) (sprite : Sprite) :
    s.AddsSets (if s.cfg.blitBatched then rows.countP (touched s.n ox oy)
      else spriteCells.countP fun rc => spriteInRange s.n ox oy rc.1 rc.2) (s.blit ox oy sprite) := by
  rw [State.blit]
  split
  · have hput := State.AddsSets.foldl (p := fun _ => false) (g := State.putCell ox oy sprite) s
      (fun u _ _ => u.addsSets_putPix _ _ _) spriteCells
    have hsync := State.AddsSets.foldl (p := fun _ => true) (s.putSprite ox oy sprite) (fun u y _ => u.addsSets_rowSync y)
      (rows.filter (touched s.n ox oy))
    rw [List.countP_false] at hput
    rw [List.countP_true, ← List.countP_eq_length_filter] at hsync
    rw [← Nat.zero_add (rows.countP _)]
    exact hput.trans hsync
  · refine State.AddsSets.foldl s (fun u rc hu => ?_) spriteCells
    rw [spriteInRange, ← hu]
    exact u.addsSets_setPix _ _ _

theorem exists_fin_of_bounds {z : Int} (h0 : 0 ≤ z) (h8 : z < 8) : ∃ i : Fin 8, (i.val : Int) = z :=
  ⟨⟨z.toNat, by omega⟩, Int.toNat_of_nonneg h0⟩

/-- A canvas row is affected when a column of the sprite is in range and one of its rows lies there. -/
theorem touched_eq (n : Byte) (ox oy : Int) (y : Fin 8) :
    touched n ox oy y = (decide (clipCols n ox ≠ 0) && decide (oy ≤ (y.val : Int) ∧ (y.val : Int) ≤ 7 + oy)) := by
  rw [Bool.eq_iff_iff, Bool.and_eq_true, decide_eq_true_iff, decide_eq_true_iff, touched_iff_inRange]
  constructor
  · rintro ⟨r, c, hv, hy⟩
    obtain ⟨hlo, hhi, -⟩ := spriteInRange_iff.1 hv
    rw [targetY] at hy
    exact ⟨by rw [clipCols]; omega, by omega⟩
  · rintro ⟨hcols, hlo, hhi⟩
    obtain ⟨hcolLo, hcol, hcolHi⟩ : 0 ≤ clipColLo ox ∧ clipColLo ox ≤ clipColHi n ox ∧ clipColHi n ox ≤ 7 := by
      refine ⟨le_max_left _ _, ?_, min_le_left _ _⟩
      rw [clipCols] at hcols
      omega
    obtain ⟨c, hc⟩ : ∃ c : Fin 8, (c.val : Int) = clipColLo ox := exists_fin_of_bounds (by omega) (by omega)
    obtain ⟨r, hr⟩ : ∃ r : Fin 8, (r.val : Int) = (y.val : Int) - oy := exists_fin_of_bounds (by omega) (by omega)
    have hv : spriteInRange n ox oy r c = true := by
      rw [spriteInRange_eq, Bool.and_eq_true, inClipRows_iff, targetY, hr, inClipCols, decide_eq_true_iff, hc]
      exact ⟨by omega, le_rfl, hcol⟩
    exact ⟨r, c, hv, by rw [targetY, hr, Int.sub_add_cancel]⟩

/-- The affected rows number `rows`, or none when no column is in range. -/
theorem countP_touched (n : Byte) (ox oy : Int) :
    ((rows.countP (touched n ox oy) : Nat) : Int) = if clipCols n ox = 0 then 0 else clipRows oy := by
  rw [funext (touched_eq n ox oy)]
  split
  · simp [‹clipCols n ox = 0›]
  · simp only [‹¬ clipCols n ox = 0›, ne_eq, not_false_eq_true, decide_true, Bool.true_and]
    refine (countP_rows_between oy (7 + oy)).trans (congrArg (max 0 ·) ?_)
    rw [clipRowLo, clipRowHi]
    omega

/-- Settles O32: the sets are those of the in-range source bits or of the affected rows. -/
theorem blitCallCounts : Obligations.BlitCallCounts := by
  intro s ox oy sprite hs
  obtain ⟨-, es, htrace, hlatch, hsend, hinit⟩ := s.addsSets_blit ox oy sprite
  refine ⟨_, es, _, exec_blit_of_ready hs ox oy sprite, htrace, ?_, hlatch, hsend, hinit⟩
  split
  · exact countP_touched s.n ox oy
  · exact countP_spriteInRange s.n ox oy

/-! ### The frame of BLIT, whether it completes or waits (44 R141, R145) -/

/-- What writes of the sprite's bits leave alone: N, every byte no target lies in, and every bit that is no target. -/
structure State.PutFrame (ox oy : Int) (s t : State) : Prop where
  n_eq : t.n = s.n
  fbWf : memWf t.fb = true
  memRead_eq : ∀ a : Nat, (∀ p, SpriteTarget s.n ox oy p → a ≠ fbAddr p.row p.device) → memRead t.fb a = memRead s.fb a
  bitAt_eq : ∀ q : PixelAddr, q.device < s.n.toNat → ¬ SpriteTarget s.n ox oy q → t.bitAt q = s.bitAt q

theorem State.PutFrame.of_sameCanvas {ox oy : Int} {s t : State} (hw : memWf s.fb = true) (h : s.SameCanvas t) :
    s.PutFrame ox oy t where
  n_eq := h.n_eq
  fbWf := by rwa [h.fb_eq]
  memRead_eq a _ := by rw [h.fb_eq]
  bitAt_eq q _ _ := h.bitAt_eq q

theorem State.PutFrame.trans {ox oy : Int} {s t u : State} (h : s.PutFrame ox oy t) (h' : t.PutFrame ox oy u) :
    s.PutFrame ox oy u where
  n_eq := h'.n_eq.trans h.n_eq
  fbWf := h'.fbWf
  memRead_eq a ha := (h'.memRead_eq a (h.n_eq ▸ ha)).trans (h.memRead_eq a ha)
  bitAt_eq q hq hne := (h'.bitAt_eq q (h.n_eq ▸ hq) (h.n_eq ▸ hne)).trans (h.bitAt_eq q hq hne)

/-- The write of one source bit. -/
theorem State.putFrame_putPix {s : State} (hw : memWf s.fb = true) {ox oy : Int} {r c : Fin 8} {p : PixelAddr}
    (h : locate s.n (targetX ox c) (targetY oy r) = some p) (on : Bool) :
    s.PutFrame ox oy (s.putPix (targetX ox c) (targetY oy r) on) where
  n_eq := s.putPix_n _ _ _
  fbWf := State.memWf_putPix hw _ _ _
  memRead_eq a ha := by
    rw [State.putPix_of_locate h, State.fbStore_fb, memRead_memWrite _ _ _ hw, if_neg (ha p ⟨r, c, h⟩)]
  bitAt_eq q hq hne := by
    rw [← (s.sameCanvas_setPix _ _ on).bitAt_eq, State.bitAt_setPix hw h hq, if_neg]
    rintro rfl
    exact hne ⟨r, c, h⟩

/-- A step of a row sync is a send or a latch. -/
theorem call_of_mem_rowSyncSteps {s : State} {r : Fin 8} {op : SeqStep} (h : op ∈ rowSyncSteps s.n r) :
    ∃ e, op.call s = some e ∧ e ≠ .init := by
  obtain ⟨hmap, hinit⟩ := rowSyncSteps_calls s r
  obtain ⟨e, he, heq⟩ := List.mem_map.1 (hmap ▸ List.mem_map_of_mem h)
  exact ⟨e, heq.symm, fun hi => hinit (hi ▸ he)⟩

/-- A send or a latch leaves the canvas. -/
theorem SeqStep.act_sameCanvas_of_call {op : SeqStep} {s t : State} {e : Event} (h : op.act s = .done t)
    (he : op.call s = some e) (hinit : e ≠ .init) : s.SameCanvas t := by
  rcases SeqStep.act_of_call he hinit with hact | ⟨f, hact⟩
  · obtain ⟨-, rfl⟩ := State.tpCall_done (hact.symm.trans h)
    exact ⟨rfl, rfl⟩
  · rw [hact] at h
    cases h

/-- A step of a blit writes a source bit to its target or belongs to a row sync. -/
theorem mem_blitBody_cases {batched : Bool} {n : Byte} {ox oy : Int} {sprite : Sprite} {op : SeqStep}
    (h : op ∈ blitBody batched n ox oy sprite) :
    (∃ r c p on, locate n (targetX ox c) (targetY oy r) = some p ∧ op = .fbPut p.row p.device p.bit on) ∨
      ∃ r, op ∈ rowSyncSteps n r := by
  cases batched with
  | false =>
    obtain ⟨rc, -, hop⟩ := List.mem_flatMap.1 h
    rw [setPixSteps] at hop
    cases hl : locate n (targetX ox rc.2) (targetY oy rc.1) with
    | none => rw [hl] at hop; cases hop
    | some p =>
      rw [hl] at hop
      exact (List.mem_cons.1 hop).imp (fun hput => ⟨rc.1, rc.2, p, _, hl, hput⟩) fun hsync => ⟨p.row, hsync⟩
  | true =>
    rcases List.mem_append.1 h with hput | hsync
    · obtain ⟨rc, -, hop⟩ := List.mem_flatMap.1 hput
      rw [putPixSteps] at hop
      cases hl : locate n (targetX ox rc.2) (targetY oy rc.1) with
      | none => rw [hl] at hop; cases hop
      | some p =>
        rw [hl] at hop
        exact .inl ⟨rc.1, rc.2, p, _, hl, List.mem_singleton.1 hop⟩
    · obtain ⟨y, -, hop⟩ := List.mem_flatMap.1 hsync
      exact .inr ⟨y, hop⟩

/-- Each step of a blit leaves all but the targets of the sprite. -/
theorem SeqStep.act_blitBody_putFrame {batched : Bool} {ox oy : Int} {sprite : Sprite} {op : SeqStep} {s t : State}
    (hw : memWf s.fb = true) (hop : op ∈ blitBody batched s.n ox oy sprite) (h : op.act s = .done t) :
    s.PutFrame ox oy t := by
  rcases mem_blitBody_cases hop with ⟨r, c, p, on, hl, rfl⟩ | ⟨r, hsync⟩
  · obtain rfl : s.putPix (targetX ox c) (targetY oy r) on = t :=
      StepResult.done.inj ((State.act_fbPut_of_locate hl on).symm.trans h)
    exact State.putFrame_putPix hw hl on
  · obtain ⟨e, he, hinit⟩ := call_of_mem_rowSyncSteps hsync
    exact .of_sameCanvas hw (SeqStep.act_sameCanvas_of_call h he hinit)

theorem runSteps_blitBody_putFrame {batched : Bool} {ox oy : Int} {sprite : Sprite} {s t : State} (hw : memWf s.fb = true)
    (h : runSteps (blitBody batched s.n ox oy sprite) s = .next t) : s.PutFrame ox oy t := by
  refine runSteps_induct (P := s.PutFrame ox oy) (fun op hop u v hu hact => ?_)
    (fun u _ hu => hu.trans (.of_sameCanvas hu.fbWf ⟨rfl, rfl⟩)) (.of_sameCanvas hw (.refl s)) h
  exact hu.trans (SeqStep.act_blitBody_putFrame hu.fbWf (hu.n_eq.symm ▸ hop) hact)

/-- Settles O50: each step leaves all but the targets, and the row syncs write the digit registers of the targets' rows. -/
theorem blitFrame : Obligations.BlitFrame := by
  intro s t ox oy sprite hw hchips h
  rcases exec_operSteps_cases rfl (stepList_blit s ox oy sprite) h with rfl | ⟨hm, rfl⟩ | ⟨-, hrun⟩
  · exact ⟨.refl t, fun _ => rfl, fun _ _ => rfl, fun _ _ _ => rfl, fun _ _ _ _ => rfl⟩
  · exact ⟨s.sameControl_raise_seq, fun ho => absurd ho hm, fun _ _ => rfl, fun _ _ _ => rfl, fun _ _ _ _ => rfl⟩
  · obtain ⟨hcontrol, hfSeq⟩ := runSteps_inBody_sameControl (blitBody_inBody _ _ ox oy sprite) hrun
    have hput := runSteps_blitBody_putFrame hw hrun
    have hregs := blitBody_writesOnly _ s.n ox oy sprite s t rfl hchips hrun
    refine ⟨hcontrol, fun _ => hfSeq, fun a ha => hput.memRead_eq a fun p ⟨r, c, hp⟩ => ha r c p hp,
      fun q hq hne => hput.bitAt_eq q hq fun ⟨r, c, hp⟩ => hne r c hp, fun j a hj ha => hregs.chipReg_eq j a hj ?_⟩
    rintro ⟨y, hy, rfl⟩
    obtain ⟨p, ⟨r, c, hp⟩, rfl⟩ := touched_iff.1 hy
    exact ha r c p hp rfl

end Sys2Proof.Machine
end

section
/-!
PROOFS. The reset and hazards family: the reset input (70 R180 to R182), the call that never returns (70 R188) and the call counts
of the commands but for BLIT's (70 R192).
-/

/- As in the state family above: these proofs too are elaborated one after another, for the memory limit of the check. -/
set_option deprecated.oldSectionVars true

namespace Sys2Proof.Machine

/-! ### The reset input (70 R180 to R182) -/

theorem Chip.regInv_powerOn (cfg : Config) : Chip.powerOn.RegInv cfg := ⟨rfl, nofun⟩

/-- Settles O54: nothing of FB is listed, the chips are empty and the block is idle in UNINIT with `N = 0`. -/
theorem resetMeetsInvariant : Obligations.ResetMeetsInvariant := by
  intro hs c k
  refine (State.inv_uninit_iff rfl).2 ⟨⟨rfl, nofun⟩, fun chip hchip => ?_, Nat.zero_le _, rfl, .inl ⟨rfl, .inl rfl⟩, rfl⟩
  obtain rfl := List.eq_of_mem_replicate hchip
  exact Chip.regInv_powerOn _

theorem State.fetch_reset {s : State} (hr : s.rst = true) : s.fetch = .reset := by
  rw [State.fetch, if_pos hr]

theorem step_reset {s : State} (hr : s.rst = true) : step s = .next s.afterReset := by
  rw [step, State.fetch_reset hr]

theorem State.tick_reset {s : State} (hr : s.rst = true) : s.tick = .next s.afterReset := by
  rw [State.tick, State.fetch_reset hr]

/-- `rst` leaves the chips alone, but that an outstanding call may complete on the wire (70 R181, R182). -/
theorem State.chipsAfterReset_cases (s : State) :
    s.chipsAfterReset = s.chips ∨ ∃ e, s.request = some e ∧ s.chipsAfterReset = wire s.cfg s.chips e := by
  rw [State.chipsAfterReset]
  cases s.request with
  | none => exact .inl rfl
  | some e =>
    by_cases hfree : Config.outstandingCallCompletes s.free = true
    · exact .inr ⟨e, rfl, if_pos hfree⟩
    · exact .inl (if_neg hfree)

theorem State.faultBits_afterReset (s : State) : s.afterReset.faultBits = 0#3 := by
  rw [State.faultBits, State.afterReset_fBadn, State.afterReset_fIllop, State.afterReset_fSeq]
  decide

/-- Settles O55: both steps find the reset first, and it sets every register of the block. -/
theorem resetStep : Obligations.ResetStep := fun s hr =>
  ⟨s.afterReset, step_reset hr, State.tick_reset hr, rfl, rfl, rfl, rfl, s.faultBits_afterReset, rfl, rfl, rfl, rfl,
    rfl, rfl, s.chipsAfterReset_cases⟩

/-! ### A call that never returns (70 R188) -/

/-- The request on the port is the call of the step the sequencer stands at (20 R50). -/
theorem State.request_eq_call {s : State} {op : SeqStep} {rest : List SeqStep} (hq : s.seq = op :: rest) :
    s.request = op.call s := by
  rw [State.request, hq]
  cases op <;> rfl

theorem State.request_idle {s : State} (hq : s.seq = []) : s.request = none := by
  rw [State.request, hq]

theorem SeqStep.eq_tpInit_of_call {op : SeqStep} {s : State} (h : op.call s = some .init) : op = .tpInit := by
  cases op with
  | tpInit => rfl
  | _ => simp [SeqStep.call] at h

/-- A step that calls waits when no call returns, unless it stops. -/
theorem SeqStep.act_waits {op : SeqStep} {s : State} {e : Event} (he : op.call s = some e) (hc : s.tpCredit = some 0)
    (hstop : ∀ f, op.act s ≠ .stop f) : op.act s = .wait := by
  by_cases hinit : e = .init
  · obtain rfl := SeqStep.eq_tpInit_of_call (hinit ▸ he)
    rw [SeqStep.act, State.tpInit, State.tpCall_waits _ hc]
  · rcases SeqStep.act_of_call he hinit with hact | ⟨f, hact⟩
    · rw [hact, State.tpCall_waits e hc]
    · exact absurd hact (hstop f)

theorem State.advance_of_wait {s : State} {op : SeqStep} {rest : List SeqStep} (hq : s.seq = op :: rest)
    (h : op.act s = .wait) : s.advance = .next s := by
  have hact : op.act { s with seq := rest } = .wait := by
    rw [SeqStep.act_withSeq, h, StepResult.mapDone_wait]
  rw [State.advance, hq]
  simp only [hact]

/-- A block of the invariant that stands at a call that never returns does not advance. -/
theorem State.Inv.advance_of_hung {s : State} (hs : s.Inv) {e : Event} (hreq : s.request = some e)
    (hc : s.tpCredit = some 0) : s.seq ≠ [] ∧ s.advance = .next s := by
  cases hq : s.seq with
  | nil => simp [State.request_idle hq] at hreq
  | cons op rest =>
    rw [State.request_eq_call hq] at hreq
    have hwait : op.act s = .wait := SeqStep.act_waits hreq hc (hs.todo hq).act_ne_stop
    exact ⟨List.cons_ne_nil op rest, State.advance_of_wait hq hwait⟩

/-- Settles O45: a block that does not advance is left as it is by a small step, and by a step, which is advances alone. -/
theorem hungCallSticks : Obligations.HungCallSticks := by
  intro s hs hr hreq hc
  obtain ⟨e, he⟩ := Option.ne_none_iff_exists'.1 hreq
  obtain ⟨hq, hadv⟩ := hs.advance_of_hung he hc
  obtain ⟨-, -, -, -, -, -, -, henc⟩ := hs
  refine ⟨?_, ?_, ?_⟩
  · rw [step_busy hr henc hq, State.resume_eq_advances, advances_of_stuck hadv]
  · rw [State.tick_busy hr henc hq, hadv]
  · simp [State.busy, hq]

/-! ### Call counts (70 R192) -/

theorem State.addsSets_setPix_of_valid {s : State} {x y : Int} (hv : valid s.n x y = true) (on : Bool) :
    s.AddsSets 1 (s.setPix x y on) := by
  simpa only [if_pos hv] using s.addsSets_setPix x y on

/-- A configuration write is one set (43 R127). -/
theorem State.addsSets_equalPackets (s : State) (a v : Byte) : s.AddsSets 1 (s.emits (equalPackets s.n.toNat a v)) := by
  refine ⟨rfl, equalPackets s.n.toNat a v, rfl, ?_, ?_, ?_⟩ <;>
    simp [equalPackets_eq_flatMap, packetEvents, latchCount, sendCount, initCount, List.countP_flatMap,
      Function.comp_def, mul_comm]

/-- A step list that, every call returning, completes and adds `k` sets to the trace, whatever FB holds. -/
def MakesSets (n : Byte) (k : Nat) (q : List SeqStep) : Prop :=
  ∀ s : State, s.Returns n → ∃ t, runSteps q s = .next t ∧ t.Returns n ∧ s.AddsSets k t

theorem MakesSets.append {n : Byte} {j k : Nat} {p q : List SeqStep} (hp : MakesSets n j p) (hq : MakesSets n k q) :
    MakesSets n (j + k) (p ++ q) := by
  intro s hs
  obtain ⟨t, hrun, ht, hadds⟩ := hp s hs
  obtain ⟨u, hrun', hu, hadds'⟩ := hq t ht
  exact ⟨u, (runSteps_append hs.calls hrun).trans hrun', hu, hadds.trans hadds'⟩

theorem cfgWriteSteps_makesSets (n a v : Byte) : MakesSets n 1 (cfgWriteSteps n a v) := by
  intro s hs
  obtain rfl := hs.n_eq
  exact ⟨_, runSteps_cfgWrite s.n a v hs.ready hs.calls, ⟨rfl, hs.ready, hs.calls⟩, s.addsSets_equalPackets a v⟩

theorem zeroSteps_makesSets (n : Byte) : MakesSets n 0 (zeroSteps n) := by
  intro s hs
  obtain rfl := hs.n_eq
  exact ⟨s.zeroFb, runSteps_zeroSteps s, ⟨rfl, hs.ready, hs.calls⟩, .none s⟩

theorem rowSyncs_makesSets (n : Byte) (rs : List (Fin 8)) : MakesSets n rs.length (rs.flatMap (rowSyncSteps n)) := by
  intro s hs
  obtain ⟨hrun, hret⟩ := Effects.flatMap (Effects.rowSync n) rs s hs
  refine ⟨_, hrun, hret, ?_⟩
  simpa only [List.countP_true] using
    State.AddsSets.foldl (p := fun _ => true) s (fun u r _ => u.addsSets_rowSync r) rs

/-- CLEAR sends eight sets, one for each row (41 R97). -/
theorem clearAllSteps_makesSets (n : Byte) : MakesSets n 8 (clearAllSteps n) :=
  (zeroSteps_makesSets n).append (rowSyncs_makesSets n rows)

/-- The fixed sequence sends thirteen sets: five configuration writes and the eight rows (43 R128). -/
theorem initBody_makesSets (cfg : Config) (n : Byte) : MakesSets n 13 (initBody cfg n) := by
  have hconfig := cfgWriteSteps_makesSets n
  exact (((((hconfig cfg.regScanLimit _).append (hconfig cfg.regDisplayTest _)).append (hconfig cfg.regDecodeMode _)).append
    (clearAllSteps_makesSets n)).append (hconfig cfg.regIntensity _)).append (hconfig cfg.regShutdown _)

/-- A legal INIT, every call returning, is `init_transfer` and then thirteen sets (43 R131, R132). -/
theorem runSteps_initSequence_addsSets {s : State} (hc : s.tpCredit = none) (cfg : Config) (k : Byte) :
    ∃ t, runSteps (initSequence cfg k) s = .next t ∧ (s.initStarted k).AddsSets 13 t := by
  have hstarted : (s.initStarted k).Returns k := ⟨rfl, rfl, hc⟩
  obtain ⟨u, hrun, -, hadds⟩ := initBody_makesSets cfg k _ hstarted
  exact ⟨{ u with mode := .oper }, by rw [runSteps_initSequence hc, runSteps_append hstarted.calls hrun]; rfl, hadds⟩

theorem exec_clear_addsSets {s : State} (hs : s.Ready) : ∃ t, exec .clear s = .next t ∧ s.AddsSets 8 t := by
  obtain ⟨hq, hm, hr, hc⟩ := hs
  obtain ⟨t, hrun, -, hadds⟩ := clearAllSteps_makesSets s.n s ⟨rfl, hr, hc⟩
  exact ⟨t, by rw [exec_idle _ s hq, stepList, clearSteps, operSteps_of_oper hm, hrun], hadds⟩

/-- Settles O38: a pixel write is one set, CLEAR eight and INIT thirteen after `init_transfer`, each of `2·N` sends and one latch. -/
theorem callCounts : Obligations.CallCounts := by
  refine ⟨fun s x y on hs hv => ?_, fun s hs => ?_, fun s count hq hm hc h1 hmax => ?_⟩
  · obtain ⟨-, es, hes, hlatch, hsend, hinit⟩ := State.addsSets_setPix_of_valid hv on
    obtain ⟨-, fs, hfs, hlatch', hsend', hinit'⟩ := State.addsSets_setPix_of_valid hv (!s.pixelOn x y)
    exact ⟨_, _, es, fs, setPixelResult s x y on hs, hes, exec_togglePixel_of_ready hs x y, hfs,
      by omega, hlatch, hinit, by omega, hlatch', hinit'⟩
  · obtain ⟨t, hrun, -, es, hes, hlatch, hsend, hinit⟩ := exec_clear_addsSets hs
    exact ⟨t, es, hrun, hes, by omega, hlatch, hinit⟩
  · have hk := toNat_of_legal h1 hmax
    obtain ⟨t, hrun, -, es, hes, hlatch, hsend, hinit⟩ :=
      runSteps_initSequence_addsSets hc s.cfg (BitVec.ofNat 8 count)
    have hexec : exec (.init count) s = .next t := by
      rw [exec_idle _ s hq, stepList, initSteps_of_legal hm h1 hmax, hrun]
    have hsends : sendCount es = 2 * count * 13 := hk ▸ hsend
    have htrace : t.trace = s.trace ++ .init :: es := hes.trans (List.append_assoc _ _ _)
    refine ⟨t, .init :: es, hexec, htrace, ?_, ?_, ?_⟩
    · exact (List.countP_cons_of_neg (by simp)).trans (by rw [← sendCount]; omega)
    · exact (List.countP_cons_of_neg (by simp)).trans hlatch
    · exact (List.countP_cons_of_pos (by simp)).trans (congrArg (· + 1) hinit)

end Sys2Proof.Machine
end

section
/-!
PROOFS. The fault flags (60 R161 to R166): what raises one, that it stays set until `rst`, and that nothing reads it.
-/

namespace Sys2Proof.Machine

/-! ### The flags after a primitive step and after a run -/

/-- A step that is no `raise` leaves every flag (60 R161). -/
theorem SeqStep.act_flag_of_ne_raise {op : SeqStep} {s t : State} (h : op.act s = .done t) (hop : ∀ f, op ≠ .raise f)
    (g : FaultFlag) : t.flag g = s.flag g := by
  rcases SeqStep.act_done_cases h with ⟨n, -, rfl⟩ | ⟨m, -, rfl⟩ | ⟨r, d, v, -, -, rfl⟩ | ⟨b, rfl, -⟩ |
    ⟨f, hf, -⟩ | ⟨-, -, rfl⟩ | ⟨e, -, -, -, -, rfl⟩ | ⟨-, rfl⟩
  · rfl
  · rfl
  · rfl
  · rfl
  · exact absurd hf (hop f)
  · rfl
  · rfl
  · rfl

/-- A primitive step sets the flag it raises and changes no other (60 R161). -/
theorem SeqStep.act_flag {op : SeqStep} {s t : State} (h : op.act s = .done t) (g : FaultFlag) :
    t.flag g = (s.flag g || decide (op = .raise g)) := by
  by_cases hop : ∃ f, op = .raise f
  · obtain ⟨f, rfl⟩ := hop
    cases h
    simp only [State.raise_flag, SeqStep.raise.injEq]
  · have hne : ∀ f, op ≠ .raise f := not_exists.1 hop
    rw [SeqStep.act_flag_of_ne_raise h hne, decide_eq_false (hne g), Bool.or_false]

/-- A run keeps every set flag set (60 R166). -/
theorem runSteps_keeps_flag {q : List SeqStep} {s t : State} {g : FaultFlag} (hset : s.flag g = true)
    (h : runSteps q s = .next t) : t.flag g = true := by
  refine runSteps_induct (P := fun u => u.flag g = true) (fun op _ u v hu hact => ?_) (fun _ _ hu => hu) hset h
  rw [SeqStep.act_flag hact, hu, Bool.true_or]

/-- A step list whose run, completing or waiting, sets the fault given and no other flag (60 R165). -/
def RaisesOnly (fault : Option FaultFlag) (q : List SeqStep) : Prop :=
  ∀ (s t : State) (g : FaultFlag), runSteps q s = .next t → t.flag g = (s.flag g || decide (fault = some g))

theorem RaisesOnly.of_ne_raise {q : List SeqStep} (hq : ∀ op ∈ q, ∀ f, op ≠ .raise f) : RaisesOnly none q := by
  intro s t g h
  have hkept : t.flag g = s.flag g :=
    runSteps_induct (P := fun u => u.flag g = s.flag g)
      (fun op hmem u v hu hact => (SeqStep.act_flag_of_ne_raise hact (hq op hmem) g).trans hu) (fun _ _ hu => hu) rfl h
  rw [hkept, decide_eq_false nofun, Bool.or_false]

theorem RaisesOnly.raise (f : FaultFlag) : RaisesOnly (some f) [.raise f] := by
  rintro s t g ⟨⟩
  simp only [State.raise_flag, Option.some.injEq]

/-- A response before the fault sets no flag. -/
theorem RaisesOnly.respond_raise (b : Bool) (f : FaultFlag) : RaisesOnly (some f) [.respond b, .raise f] :=
  fun s t g h => RaisesOnly.raise f (s.respond b) t g h

theorem RaisesOnly.orFinish {fault : Option FaultFlag} {q : List SeqStep} (h : RaisesOnly fault q) :
    RaisesOnly fault (orFinish q) :=
  fun s t g hrun => h s t g (runSteps_orFinish q s ▸ hrun)

theorem SeqStep.ne_raise_of_inBody {n : Byte} {op : SeqStep} (h : op.inBody n = true) (f : FaultFlag) :
    op ≠ .raise f := by
  rintro rfl
  cases h

theorem RaisesOnly.of_inBody {n : Byte} {q : List SeqStep} (hq : q.all (SeqStep.inBody n) = true) :
    RaisesOnly none q :=
  .of_ne_raise fun op hmem => SeqStep.ne_raise_of_inBody (List.all_eq_true.1 hq op hmem)

/-! ### The faults of the commands (60 R162 to R165) -/

theorem operSteps_of_ne_oper {s : State} (h : s.mode ≠ .oper) (q : List SeqStep) : operSteps s q = [.raise .seq] :=
  if_neg h

theorem getPixelSteps_of_ne_oper {s : State} (h : s.mode ≠ .oper) (x y : Int) :
    getPixelSteps s x y = [.respond false, .raise .seq] := if_neg h

theorem initSteps_of_ne_uninit {s : State} (h : s.mode ≠ .uninit) (count : Nat) : initSteps s count = [.raise .seq] :=
  if_pos h

theorem initSteps_of_not_legal {s : State} {count : Nat} (hm : s.mode = .uninit)
    (hl : legalCount s.cfg count = false) : initSteps s count = [.raise .badn] := by
  rw [initSteps, if_neg (not_not.2 hm), hl]
  rfl

/-- A command that needs OPER, elsewhere, sets `F_SEQ` and does nothing else (41 R90). -/
theorem exec_operSteps_of_ne_oper {i : Instr} {s : State} {q : List SeqStep} (hq : s.seq = []) (hm : s.mode ≠ .oper)
    (hlist : stepList i s = operSteps s q) : exec i s = .next { s with fSeq := true } := by
  rw [exec_idle i s hq, hlist, operSteps_of_ne_oper hm]
  rfl

/-- Settles O22: out of its mode every command has the one `raise` to run, GET_PIXEL a response before it; and an idle block
of the invariant is in UNINIT or OPER. -/
theorem sequenceErrors : Obligations.SequenceErrors := by
  refine ⟨fun s x y on sprite hq hm => ⟨?_, ?_, ?_, ?_, ?_⟩, fun s count hq hm => ?_, fun s hs hq => ?_⟩
  · exact exec_operSteps_of_ne_oper hq hm rfl
  · rw [exec_idle _ s hq, stepList, getPixelSteps_of_ne_oper hm]
    rfl
  · exact exec_operSteps_of_ne_oper hq hm rfl
  · exact exec_operSteps_of_ne_oper hq hm rfl
  · exact exec_operSteps_of_ne_oper hq hm rfl
  · rw [exec_idle _ s hq, stepList, initSteps_of_ne_uninit hm]
    rfl
  · rcases hs.idle_mode hq with ⟨hm, -⟩ | hm <;> simp [hm]

/-- Settles O23: the mode check passed and the count check not, INIT has the one `raise` to run. -/
theorem badDeviceCount : Obligations.BadDeviceCount := by
  intro s count hq hm hcount
  have hl : legalCount s.cfg count = false := decide_eq_false (by omega)
  rw [exec_idle _ s hq, stepList, initSteps_of_not_legal hm hl]
  rfl

/-- Settles O10: the word is taken, and the reserved opcode's one step raises `F_ILLOP`. -/
theorem reservedOpcodeSetsIllop : Obligations.ReservedOpcodeSetsIllop := by
  intro s w ws hr he hq hh hop
  have hd : decodeCommand w = .reservedOpcode (opField w) := decodeCommand_reserved_iff.2 ⟨rfl, hop⟩
  have hrun : acceptReserved s.takeCommand = .next (s.takeCommand.raise .illop) := State.accept_idle s.takeCommand _ hq
  rw [step, State.fetch_command hr he hq hh, hd]
  exact hrun.trans (by rw [State.takeCommand_eq hh]; rfl)

/-! ### At most one fault for a word, in the order opcode, mode, count (60 R165) -/

theorem operSteps_raisesOnly {s : State} {q : List SeqStep} (hq : q.all (SeqStep.inBody s.n) = true) :
    RaisesOnly (if s.mode ≠ .oper then some .seq else none) (operSteps s q) := by
  by_cases hm : s.mode = .oper
  · rw [if_neg (not_not.2 hm), operSteps_of_oper hm]
    exact .of_inBody hq
  · rw [if_pos hm, operSteps_of_ne_oper hm]
    exact .raise .seq

theorem getPixSteps_raisesOnly (n : Byte) (x y : Int) : RaisesOnly none (getPixSteps n x y) := by
  rw [getPixSteps]
  cases locate n x y <;> exact .of_ne_raise (by simp)

theorem getPixelSteps_raisesOnly (s : State) (x y : Int) :
    RaisesOnly (if s.mode ≠ .oper then some .seq else none) (getPixelSteps s x y) := by
  by_cases hm : s.mode = .oper
  · rw [if_neg (not_not.2 hm), getPixelSteps_of_oper hm]
    exact getPixSteps_raisesOnly s.n x y
  · rw [if_pos hm, getPixelSteps_of_ne_oper hm]
    exact .respond_raise false .seq

theorem initSequence_raisesOnly (cfg : Config) (n : Byte) : RaisesOnly none (initSequence cfg n) := by
  obtain ⟨q, hlist, hq⟩ := initSequence_afterWriteN cfg n
  rw [hlist]
  refine .of_ne_raise (List.forall_mem_cons.2 ⟨nofun, fun op hmem => ?_⟩)
  rcases hq op hmem with hbody | ⟨m, rfl⟩ | rfl
  · exact SeqStep.ne_raise_of_inBody hbody
  · exact nofun
  · exact nofun

theorem initSteps_raisesOnly (s : State) (count : Nat) :
    RaisesOnly (if s.mode ≠ .uninit then some .seq else if legalCount s.cfg count then none else some .badn)
      (initSteps s count) := by
  rw [initSteps]
  split
  · exact .raise .seq
  · split
    · exact initSequence_raisesOnly _ _
    · exact .raise .badn

theorem decodeCommand_ne_unknownPacketAddress (w : CommandWord) (a : Byte) :
    decodeCommand w ≠ .unknownPacketAddress a := by
  rw [decodeCommand]
  split <;> exact nofun

/-- What the acceptance of a word loads raises the one fault of the word (60 R165). -/
theorem commandSteps_raisesOnly (s : State) (w : CommandWord) :
    RaisesOnly (faultOf s w) (commandSteps (decodeCommand w) s) := by
  rw [faultOf]
  cases hd : decodeCommand w with
  | instr i =>
    refine .orFinish ?_
    cases i with
    | init count => exact initSteps_raisesOnly s count
    | setPixel x y on => exact operSteps_raisesOnly (setPixSteps_inBody s.n x y on)
    | getPixel x y => exact getPixelSteps_raisesOnly s x y
    | togglePixel x y => exact operSteps_raisesOnly (togglePixSteps_inBody s.n x y)
    | clear => exact operSteps_raisesOnly (clearAllSteps_inBody s.n)
    | blit ox oy sprite => exact operSteps_raisesOnly (blitBody_inBody s.cfg.blitBatched s.n ox oy sprite)
    | _ v => cases decodeCommand_isCommand hd
  | reservedOpcode op => exact .raise .illop
  | unknownPacketAddress a => exact absurd hd (decodeCommand_ne_unknownPacketAddress w a)

/-- Settles O24: the step runs what the word's acceptance loads, from a state with the flags of this one. -/
theorem faultPriority : Obligations.FaultPriority := by
  intro s t w ws hr he hq hh h f
  rw [step_command hr he hq hh] at h
  exact commandSteps_raisesOnly s w { s.acceptWord (decodeCommand w) with seq := [] } t f h

/-! ### A flag once set stays set (60 R166) -/

/-- Every meaning is a run of steps: none when a busy block ignores a command. -/
theorem exec_eq_runSteps (i : Instr) (s : State) : ∃ q, exec i s = runSteps q s := by
  cases hi : i.isCommand with
  | false => exact ⟨_, exec_packet i s hi⟩
  | true =>
    by_cases hq : s.seq = []
    · exact ⟨_, exec_idle i s hq⟩
    · exact ⟨[], by rw [exec_command i s hi, State.accept_busy s _ hq, runSteps_nil]⟩

/-- Every step but a reset is a run of steps from a state with the same flags. -/
theorem step_next_run {s t : State} (hr : s.rst = false) (h : step s = .next t) :
    ∃ q u, (∀ f, u.flag f = s.flag f) ∧ runSteps q u = .next t := by
  cases he : s.enc with
  | some w =>
    rw [step, State.fetch_packet hr he] at h
    cases hd : decodePacket s.cfg w with
    | instr i =>
      obtain ⟨q, hq⟩ := exec_eq_runSteps i s.takePacket
      rw [hd] at h
      exact ⟨q, s.takePacket, fun _ => rfl, hq.symm.trans h⟩
    | reservedOpcode op => rw [hd] at h; cases h
    | unknownPacketAddress a => rw [hd] at h; cases h
  | none =>
    by_cases hq : s.seq = []
    · cases hh : s.host with
      | nil =>
        rw [step, State.fetch_idle hr he hq hh] at h
        exact ⟨[], s.beginStep, fun _ => rfl, h⟩
      | cons w ws =>
        rw [step_command hr he hq hh] at h
        exact ⟨_, { s.acceptWord (decodeCommand w) with seq := [] }, fun _ => rfl, h⟩
    · rw [step_busy hr he hq] at h
      exact ⟨s.seq, { s with seq := [] }, fun _ => rfl, h⟩

theorem State.advance_keeps_flag {s t : State} {f : FaultFlag} (hset : s.flag f = true) (h : s.advance = .next t) :
    t.flag f = true := by
  rcases State.advance_next_cases h with ⟨-, rfl⟩ | ⟨op, rest, -, hact, -⟩ | ⟨op, rest, -, -, rfl⟩
  · exact hset
  · rw [SeqStep.act_flag hact, Bool.or_eq_true]
    exact .inl hset
  · exact hset

/-- Every small step but a reset is an advance, or leaves the flags. -/
theorem State.tick_next_flags {s t : State} (hr : s.rst = false) (h : s.tick = .next t) :
    s.advance = .next t ∨ ∀ f, t.flag f = s.flag f := by
  cases he : s.enc with
  | some w =>
    rw [State.tick, State.fetch_packet hr he] at h
    cases hd : decodePacket s.cfg w with
    | instr i =>
      rw [hd] at h
      cases h
      exact .inr fun _ => rfl
    | reservedOpcode op => rw [hd] at h; cases h
    | unknownPacketAddress a => rw [hd] at h; cases h
  | none =>
    rcases State.tick_next_cases hr he h with ⟨-, hadv⟩ | ⟨w, ws, -, -, rfl⟩ | ⟨-, -, rfl⟩
    · exact .inl hadv
    · exact .inr fun _ => rfl
    · exact .inr fun _ => rfl

/-- Settles O25: a step is a run from a state with the same flags, a small step at most an advance, and neither clears one. -/
theorem faultFlagsSticky : Obligations.FaultFlagsSticky := by
  rintro s t f hr (h | h) hset
  · obtain ⟨q, u, hflags, hrun⟩ := step_next_run hr h
    exact runSteps_keeps_flag ((hflags f).trans hset) hrun
  · rcases State.tick_next_flags hr h with hadv | hflags
    · exact State.advance_keeps_flag hset hadv
    · exact (hflags f).trans hset

/-! ### Nothing reads a flag (60 R166, 10 R31) -/

/-- No primitive step looks at a fault flag. -/
theorem invisible_raise (f : FaultFlag) : Invisible (·.raise f) where
  fbExists _ _ := by cases f <;> rfl
  fbByte _ _ _ := by cases f <;> rfl
  tpReady s := s.raise_tpReady f
  tpCredit s := s.raise_tpCredit f
  writeN _ _ := by cases f <;> rfl
  setMode _ _ := by cases f <;> rfl
  fbStore _ _ _ _ := by cases f <;> rfl
  respond _ _ := by cases f <;> rfl
  raise _ g := by cases f <;> cases g <;> rfl
  emit _ _ := by cases f <;> rfl
  spend _ _ := by cases f <;> rfl
  setUp _ := by cases f <;> rfl
  load _ _ := by cases f <;> rfl

theorem stepList_raise (i : Instr) (s : State) (f : FaultFlag) : stepList i (s.raise f) = stepList i s :=
  stepList_congr i (s.raise_cfg f) (s.raise_n f) (s.raise_mode f)

theorem runSteps_raise (q : List SeqStep) (s : State) (f : FaultFlag) :
    runSteps q (s.raise f) = mapNext (·.raise f) (runSteps q s) :=
  (invisible_raise f).runSteps (fun s => s.raise_seq f) q s

/-- The acceptance of a step list looks at whether the block is idle, and at no flag. -/
theorem State.accept_raise (s : State) (q : List SeqStep) (f : FaultFlag) :
    (s.raise f).accept q = mapNext (·.raise f) (s.accept q) := by
  have hseq : (s.raise f).seq = s.seq := s.raise_seq f
  by_cases hq : s.seq = []
  · rw [State.accept_idle s q hq, State.accept_idle _ q (hseq.trans hq), runSteps_raise]
  · rw [State.accept_busy s q hq, State.accept_busy _ q (hseq ▸ hq)]
    rfl

/-- Settles O26: the flags decide neither what an instruction is unrolled into nor what its steps do. -/
theorem faultFlagsUnread : Obligations.FaultFlagsUnread := by
  intro i s f
  cases hi : i.isCommand with
  | true => rw [exec_command i s hi, exec_command i _ hi, stepList_raise, State.accept_raise]
  | false => rw [exec_packet i s hi, exec_packet i _ hi, stepList_raise, runSteps_raise]

end Sys2Proof.Machine
end
